-- ==== Sys2Proof/Word.lean ====
section
/-! DEFINITION. The word types of the engine (00_scope.md R6, R8): every value is an unsigned
bit vector of a stated width; nothing is signed. -/

namespace Sys2Proof

/-- A byte: a general register, a timer, a memory cell, an immediate NN (R6, R20, R50). -/
abbrev Byte := BitVec 8

/-- A 16-bit word: an instruction, PC, I, a call-stack entry (R22, R23, R24, R70). -/
abbrev Word := BitVec 16

/-- A nibble: a register number, a key code, the row count N (R7, R12). -/
abbrev Nibble := BitVec 4

/-- The 12-bit immediate NNN (R7, R72). -/
abbrev Addr12 := BitVec 12

end Sys2Proof
end

