-- ==== Sys2Proof/Syntax.lean ====
section
/-! DEFINITION. The instructions: one constructor per row of spec/opcode_table.json (30_encoding.md R74).
Operands have exactly the widths of the encoding's fields (R7, R71, R72). The names follow the
conventional mnemonics of R78, with the spec's own pattern in each docstring. -/

namespace Sys2Proof

inductive Instr where
  /-- 00E0: clear the framebuffer (R192). -/
  | cls
  /-- 00EE: return from subroutine (R121). -/
  | ret
  /-- 1NNN: jump (R122). -/
  | jp (nnn : Addr12)
  /-- 2NNN: call subroutine (R123). -/
  | call (nnn : Addr12)
  /-- 3XNN: skip if V[X] = NN (R124). -/
  | seImm (x : Nibble) (nn : Byte)
  /-- 4XNN: skip if V[X] ≠ NN (R125). -/
  | sneImm (x : Nibble) (nn : Byte)
  /-- 5XY0: skip if V[X] = V[Y] (R126). -/
  | seReg (x y : Nibble)
  /-- 6XNN: load immediate (R141). -/
  | ldImm (x : Nibble) (nn : Byte)
  /-- 7XNN: add immediate, no flag (R142). -/
  | addImm (x : Nibble) (nn : Byte)
  /-- 8XY0: copy register (R143). -/
  | ldReg (x y : Nibble)
  /-- 8XY1: bitwise OR (R144). -/
  | orReg (x y : Nibble)
  /-- 8XY2: bitwise AND (R145). -/
  | andReg (x y : Nibble)
  /-- 8XY3: bitwise XOR (R146). -/
  | xorReg (x y : Nibble)
  /-- 8XY4: add with carry flag (R147). -/
  | addReg (x y : Nibble)
  /-- 8XY5: V[X] - V[Y] with NOT-borrow flag (R148). -/
  | subReg (x y : Nibble)
  /-- 8XY6: shift right by one (R149). -/
  | shr (x y : Nibble)
  /-- 8XY7: V[Y] - V[X] with NOT-borrow flag (R150). -/
  | subnReg (x y : Nibble)
  /-- 8XYE: shift left by one (R151). -/
  | shl (x y : Nibble)
  /-- 9XY0: skip if V[X] ≠ V[Y] (R127). -/
  | sneReg (x y : Nibble)
  /-- ANNN: load index (R170). -/
  | ldIndex (nnn : Addr12)
  /-- BNNN: jump with register offset (R128). -/
  | jpOffset (nnn : Addr12)
  /-- CXNN: random byte masked (R152). -/
  | rnd (x : Nibble) (nn : Byte)
  /-- DXYN: draw sprite (R193). -/
  | drw (x y n : Nibble)
  /-- EX9E: skip if the latched key equals V[X] (R210). -/
  | skp (x : Nibble)
  /-- EXA1: skip if the latched key differs from V[X] (R211). -/
  | sknp (x : Nibble)
  /-- FX07: read the delay timer (R212). -/
  | ldFromDelay (x : Nibble)
  /-- FX0A: wait for a key-down (R213). -/
  | ldKey (x : Nibble)
  /-- FX15: set the delay timer (R214). -/
  | ldDelay (x : Nibble)
  /-- FX18: set the sound timer (R215). -/
  | ldSound (x : Nibble)
  /-- FX1E: add register to index (R173). -/
  | addIndex (x : Nibble)
  /-- FX29: point I at a font glyph (R174). -/
  | ldGlyph (x : Nibble)
  /-- FX33: store BCD of V[X] (R175). -/
  | storeBcd (x : Nibble)
  /-- FX55: store registers V[0]..V[X] (R176). -/
  | storeRegs (x : Nibble)
  /-- FX65: load registers V[0]..V[X] (R177). -/
  | loadRegs (x : Nibble)
deriving DecidableEq, Repr

end Sys2Proof
end

