-- ==== Sys2Proof/Decode.lean ====
section
/-! DEFINITION. Instruction encoding (30_encoding.md): fields of a word (R7, R70), the dispatch of R74,
decoding of bytes in memory order (R56, R102), and the encoder written from the same table. -/

namespace Sys2Proof

/-! ### Fields (R7) -/

/-- `n1 = w[15:12]`, the opcode class. -/
def fieldN1 (w : Word) : Nibble := w.extractLsb' 12 4

/-- `n2 = w[11:8]`, the register field X. -/
def fieldX (w : Word) : Nibble := w.extractLsb' 8 4

/-- `n3 = w[7:4]`, the register field Y. -/
def fieldY (w : Word) : Nibble := w.extractLsb' 4 4

/-- `n4 = w[3:0]`, the count N. -/
def fieldN (w : Word) : Nibble := w.extractLsb' 0 4

/-- `nn = w[7:0]` (R72). -/
def fieldNN (w : Word) : Byte := w.extractLsb' 0 8

/-- `nnn = w[11:0]` (R72). -/
def fieldNNN (w : Word) : Addr12 := w.extractLsb' 0 12

/-! ### Byte order (R56) -/

/-- A big-endian word: the first byte is the most significant (R56, R102). -/
def wordOfBytes (hi lo : Byte) : Word := BitVec.ofNat 16 (hi.toNat * 256 + lo.toNat)

/-- The byte of a word that lies at the lower address (R56). -/
def highByte (w : Word) : Byte := w.extractLsb' 8 8

/-- The byte of a word that lies at the higher address (R56). -/
def lowByte (w : Word) : Byte := w.extractLsb' 0 8

/-! ### Dispatch (R74, R104) -/

/-- The 0x8 family: dispatch on n4 (R74). -/
def decodeArith (x y n : Nibble) : Option Instr :=
  if n = 0x0#4 then some (.ldReg x y)
  else if n = 0x1#4 then some (.orReg x y)
  else if n = 0x2#4 then some (.andReg x y)
  else if n = 0x3#4 then some (.xorReg x y)
  else if n = 0x4#4 then some (.addReg x y)
  else if n = 0x5#4 then some (.subReg x y)
  else if n = 0x6#4 then some (.shr x y)
  else if n = 0x7#4 then some (.subnReg x y)
  else if n = 0xE#4 then some (.shl x y)
  else none

/-- The 0xE family: dispatch on w[7:0] (R74). -/
def decodeKeys (x : Nibble) (nn : Byte) : Option Instr :=
  if nn = 0x9E#8 then some (.skp x)
  else if nn = 0xA1#8 then some (.sknp x)
  else none

/-- The 0xF family: dispatch on w[7:0] (R74). -/
def decodeMisc (x : Nibble) (nn : Byte) : Option Instr :=
  if nn = 0x07#8 then some (.ldFromDelay x)
  else if nn = 0x0A#8 then some (.ldKey x)
  else if nn = 0x15#8 then some (.ldDelay x)
  else if nn = 0x18#8 then some (.ldSound x)
  else if nn = 0x1E#8 then some (.addIndex x)
  else if nn = 0x29#8 then some (.ldGlyph x)
  else if nn = 0x33#8 then some (.storeBcd x)
  else if nn = 0x55#8 then some (.storeRegs x)
  else if nn = 0x65#8 then some (.loadRegs x)
  else none

/-- The dispatch of R74: the instruction of a word, or none where the word matches no row (R75). Every
fixed nibble of a row must match (D35). -/
def decodeWord (w : Word) : Option Instr :=
  if fieldN1 w = 0x0#4 then
    if w = 0x00E0#16 then some .cls
    else if w = 0x00EE#16 then some .ret
    else none
  else if fieldN1 w = 0x1#4 then some (.jp (fieldNNN w))
  else if fieldN1 w = 0x2#4 then some (.call (fieldNNN w))
  else if fieldN1 w = 0x3#4 then some (.seImm (fieldX w) (fieldNN w))
  else if fieldN1 w = 0x4#4 then some (.sneImm (fieldX w) (fieldNN w))
  else if fieldN1 w = 0x5#4 then
    if fieldN w = 0x0#4 then some (.seReg (fieldX w) (fieldY w)) else none
  else if fieldN1 w = 0x6#4 then some (.ldImm (fieldX w) (fieldNN w))
  else if fieldN1 w = 0x7#4 then some (.addImm (fieldX w) (fieldNN w))
  else if fieldN1 w = 0x8#4 then decodeArith (fieldX w) (fieldY w) (fieldN w)
  else if fieldN1 w = 0x9#4 then
    if fieldN w = 0x0#4 then some (.sneReg (fieldX w) (fieldY w)) else none
  else if fieldN1 w = 0xA#4 then some (.ldIndex (fieldNNN w))
  else if fieldN1 w = 0xB#4 then some (.jpOffset (fieldNNN w))
  else if fieldN1 w = 0xC#4 then some (.rnd (fieldX w) (fieldNN w))
  else if fieldN1 w = 0xD#4 then some (.drw (fieldX w) (fieldY w) (fieldN w))
  else if fieldN1 w = 0xE#4 then decodeKeys (fieldX w) (fieldNN w)
  else decodeMisc (fieldX w) (fieldNN w)

/-- Why bytes are no instruction. -/
inductive DecodeError where
  /-- Fewer than the two bytes every instruction has (R70, R77). -/
  | truncated
  /-- The word matches no row of R74 (R75). -/
  | unknownOpcode (w : Word)
deriving DecidableEq, Repr

/-- Decode the first instruction of a byte string, and answer it with the bytes after it. Total; what it
rejects it rejects by name. -/
def decodeBytes : List Byte → Except DecodeError (Instr × List Byte)
  | hi :: lo :: rest =>
    match decodeWord (wordOfBytes hi lo) with
    | some i => .ok (i, rest)
    | none => .error (.unknownOpcode (wordOfBytes hi lo))
  | [_] => .error .truncated
  | [] => .error .truncated

/-- The instruction of the opcode-table word `w` of `nbits` bits, through the byte decoder: the word's
bytes in memory order, bits above `nbits` zero. -/
def decodeTableWord (nbits w : Nat) : Option Instr :=
  let word := BitVec.ofNat 16 (w % 2 ^ nbits)
  match decodeBytes [highByte word, lowByte word] with
  | .ok (i, _) => some i
  | .error _ => none

/-! ### Encoder (R70, R71, R74) -/

/-- Format `NNN`: n1 fixed, NNN = w[11:0]. -/
def packNNN (c : Nibble) (nnn : Addr12) : Word := BitVec.ofNat 16 (c.toNat * 4096 + nnn.toNat)

/-- Formats `XNN` and `X`: n1, X = w[11:8], the low byte. -/
def packXNN (c x : Nibble) (nn : Byte) : Word :=
  BitVec.ofNat 16 (c.toNat * 4096 + x.toNat * 256 + nn.toNat)

/-- Formats `XY` and `XYN`: n1, X = w[11:8], Y = w[7:4], n4 = w[3:0]. -/
def packXYN (c x y n : Nibble) : Word :=
  BitVec.ofNat 16 (c.toNat * 4096 + x.toNat * 256 + y.toNat * 16 + n.toNat)

/-- The word of an instruction (R74). -/
def encode : Instr → Word
  | .cls => 0x00E0#16
  | .ret => 0x00EE#16
  | .jp nnn => packNNN 0x1 nnn
  | .call nnn => packNNN 0x2 nnn
  | .seImm x nn => packXNN 0x3 x nn
  | .sneImm x nn => packXNN 0x4 x nn
  | .seReg x y => packXYN 0x5 x y 0x0
  | .ldImm x nn => packXNN 0x6 x nn
  | .addImm x nn => packXNN 0x7 x nn
  | .ldReg x y => packXYN 0x8 x y 0x0
  | .orReg x y => packXYN 0x8 x y 0x1
  | .andReg x y => packXYN 0x8 x y 0x2
  | .xorReg x y => packXYN 0x8 x y 0x3
  | .addReg x y => packXYN 0x8 x y 0x4
  | .subReg x y => packXYN 0x8 x y 0x5
  | .shr x y => packXYN 0x8 x y 0x6
  | .subnReg x y => packXYN 0x8 x y 0x7
  | .shl x y => packXYN 0x8 x y 0xE
  | .sneReg x y => packXYN 0x9 x y 0x0
  | .ldIndex nnn => packNNN 0xA nnn
  | .jpOffset nnn => packNNN 0xB nnn
  | .rnd x nn => packXNN 0xC x nn
  | .drw x y n => packXYN 0xD x y n
  | .skp x => packXNN 0xE x 0x9E
  | .sknp x => packXNN 0xE x 0xA1
  | .ldFromDelay x => packXNN 0xF x 0x07
  | .ldKey x => packXNN 0xF x 0x0A
  | .ldDelay x => packXNN 0xF x 0x15
  | .ldSound x => packXNN 0xF x 0x18
  | .addIndex x => packXNN 0xF x 0x1E
  | .ldGlyph x => packXNN 0xF x 0x29
  | .storeBcd x => packXNN 0xF x 0x33
  | .storeRegs x => packXNN 0xF x 0x55
  | .loadRegs x => packXNN 0xF x 0x65

/-- The two bytes of an instruction in memory order (R56). -/
def encodeBytes (i : Instr) : List Byte := [highByte (encode i), lowByte (encode i)]

/-! ### The rows of R74 as data -/

/-- Mask and match of each row of R74, in the table's order. A word is an instruction iff it meets
exactly one row. -/
def opcodeRows : List (Word × Word) :=
  [(0xFFFF, 0x00E0), (0xFFFF, 0x00EE), (0xF000, 0x1000), (0xF000, 0x2000), (0xF000, 0x3000),
   (0xF000, 0x4000), (0xF00F, 0x5000), (0xF000, 0x6000), (0xF000, 0x7000)] ++
  [(0xF00F, 0x8000), (0xF00F, 0x8001), (0xF00F, 0x8002), (0xF00F, 0x8003), (0xF00F, 0x8004),
   (0xF00F, 0x8005), (0xF00F, 0x8006), (0xF00F, 0x8007), (0xF00F, 0x800E), (0xF00F, 0x9000)] ++
  [(0xF000, 0xA000), (0xF000, 0xB000), (0xF000, 0xC000), (0xF000, 0xD000), (0xF0FF, 0xE09E),
   (0xF0FF, 0xE0A1)] ++
  [(0xF0FF, 0xF007), (0xF0FF, 0xF00A), (0xF0FF, 0xF015), (0xF0FF, 0xF018), (0xF0FF, 0xF01E),
   (0xF0FF, 0xF029), (0xF0FF, 0xF033), (0xF0FF, 0xF055), (0xF0FF, 0xF065)]

/-- A word meets a row of R74: its bits under the mask are the row's match. -/
def meetsRow (w : Word) (row : Word × Word) : Bool := w &&& row.1 == row.2

/-- The place in `opcodeRows` of an instruction's own row. -/
def rowIndex : Instr → Nat
  | .cls => 0
  | .ret => 1
  | .jp _ => 2
  | .call _ => 3
  | .seImm _ _ => 4
  | .sneImm _ _ => 5
  | .seReg _ _ => 6
  | .ldImm _ _ => 7
  | .addImm _ _ => 8
  | .ldReg _ _ => 9
  | .orReg _ _ => 10
  | .andReg _ _ => 11
  | .xorReg _ _ => 12
  | .addReg _ _ => 13
  | .subReg _ _ => 14
  | .shr _ _ => 15
  | .subnReg _ _ => 16
  | .shl _ _ => 17
  | .sneReg _ _ => 18
  | .ldIndex _ => 19
  | .jpOffset _ => 20
  | .rnd _ _ => 21
  | .drw _ _ _ => 22
  | .skp _ => 23
  | .sknp _ => 24
  | .ldFromDelay _ => 25
  | .ldKey _ => 26
  | .ldDelay _ => 27
  | .ldSound _ => 28
  | .addIndex _ => 29
  | .ldGlyph _ => 30
  | .storeBcd _ => 31
  | .storeRegs _ => 32
  | .loadRegs _ => 33

end Sys2Proof
end

