-- ==== Sys2Proof/Config.lean ====
section
/-! DEFINITION. The implementation parameters of 00_scope.md R5, the numbers the source fixes (R5, R6),
and the free values of the model (constants without a body). -/

namespace Sys2Proof

/-- The two timer decrement policies of R5 (R251, R252). -/
inductive TimerPolicy where
  | wallClock
  | instrCount
deriving DecidableEq, Repr

/-- The configuration record of R5. It stays fixed for the whole run (R34). -/
structure Config where
  /-- `P_SHIFT_USES_VY`: true = legacy, 8XY6/8XYE shift V[Y]; false = modern, they shift V[X]. -/
  shiftUsesVy : Bool
  /-- `P_JUMP_VX`: true = BNNN adds V[X]; false = BNNN adds V[0]. -/
  jumpVx : Bool
  /-- `P_LS_ADVANCE_I`: true = FX55/FX65 advance I by X+1. -/
  lsAdvanceI : Bool
  /-- `P_FX1E_VF`: true = FX1E writes VF. -/
  fx1eVf : Bool
  /-- `P_TIMER_POLICY`. -/
  timerPolicy : TimerPolicy
  /-- `P_TIMER_DIV`, at least 1. -/
  timerDiv : Nat
  /-- `P_STACK_DEPTH`, at least 1. -/
  stackDepth : Nat
  /-- `P_FETCH_ALIGN_FAULT`. -/
  fetchAlignFault : Bool
  /-- `P_FONT`, 80 bytes. -/
  font : List Byte
deriving DecidableEq, Repr

/-! ### Numbers the source fixes (R5, R6) -/

/-- Bytes of memory (R50). -/
def Config.memorySize : Nat := 4096

/-- Where a program is loaded and where execution starts (R52, R281). -/
def Config.programBase : Nat := 0x200

/-- The longest program image, 4096 - 512 bytes (R282). -/
def Config.maxImage : Nat := 3584

/-- Bytes of the font table (R53). -/
def Config.fontSize : Nat := 80

/-- Bytes of one glyph (R53, R54). -/
def Config.glyphSize : Nat := 5

/-! ### The OPEN parameters (R5, D18, D30)

Constants without a body: nothing in Lean can evaluate them, so what is proved of the reset state
holds whatever they are (log 3). -/

/-- OPEN (D18). -/
opaque Config.openShiftUsesVy : Bool

/-- OPEN (D18); the repository value is false. -/
opaque Config.openJumpVx : Bool

/-- OPEN (D18); the repository value is true. -/
opaque Config.openLsAdvanceI : Bool

/-- OPEN (D18). -/
opaque Config.openFx1eVf : Bool

/-- OPEN (D30). -/
opaque Config.openTimerPolicyIsInstrCount : Bool

/-- OPEN (D30). One less than the divider, so that the divider is at least 1 (log 4). -/
opaque Config.openTimerDivPred : Nat

/-- The free random byte of CXNN: the n-th byte taken when the host's agenda names none
(R152, R264, D22; log 5). -/
opaque Config.randomByte : Nat → Byte

/-- The default of `P_FONT` (R53, D19): the conventional hexadecimal font, sixteen glyphs of five rows.
PRESUMED by the spec itself, from general knowledge (log 10). -/
def Config.defaultFont : List Byte :=
  [0xF0, 0x90, 0x90, 0x90, 0xF0] ++ [0x20, 0x60, 0x20, 0x20, 0x70] ++
  [0xF0, 0x10, 0xF0, 0x80, 0xF0] ++ [0xF0, 0x10, 0xF0, 0x10, 0xF0] ++
  [0x90, 0x90, 0xF0, 0x10, 0x10] ++ [0xF0, 0x80, 0xF0, 0x10, 0xF0] ++
  [0xF0, 0x80, 0xF0, 0x90, 0xF0] ++ [0xF0, 0x10, 0x20, 0x40, 0x40] ++
  [0xF0, 0x90, 0xF0, 0x90, 0xF0] ++ [0xF0, 0x90, 0xF0, 0x10, 0xF0] ++
  [0xF0, 0x90, 0xF0, 0x90, 0x90] ++ [0xE0, 0x90, 0xE0, 0x90, 0xE0] ++
  [0xF0, 0x80, 0x80, 0x80, 0xF0] ++ [0xE0, 0x90, 0x90, 0x90, 0xE0] ++
  [0xF0, 0x80, 0xF0, 0x80, 0xF0] ++ [0xF0, 0x80, 0xF0, 0x80, 0x80]

/-- The configuration of this hardware (R5, last column): OPEN entries without a body,
depth 16 (D5), the alignment fault on (D4), the default font (D19). -/
def Config.hardware : Config where
  shiftUsesVy := Config.openShiftUsesVy
  jumpVx := Config.openJumpVx
  lsAdvanceI := Config.openLsAdvanceI
  fx1eVf := Config.openFx1eVf
  timerPolicy := if Config.openTimerPolicyIsInstrCount then .instrCount else .wallClock
  timerDiv := Config.openTimerDivPred + 1
  stackDepth := 16
  fetchAlignFault := true
  font := Config.defaultFont

end Sys2Proof
end

