-- ==== Sys2Proof/Machine/State.lean ====
section
/-! DEFINITION. The machine's state (10_state.md R20..R36), the host's actions (R261), the reasons a step
stops, and the state after reset (R36, R280). -/

namespace Sys2Proof.Machine

/-- Memory R27, R50: the bytes that differ from the reset contents, addresses strictly rising
(`Memory.WellFormed`). What an unlisted address reads as is `Memory.unlisted`. -/
abbrev Memory := List Host.Cell

/-- Framebuffer R28: 32 rows of 64 cells, row-major; true is lit. -/
abbrev Framebuffer := Vector (Vector Bool 64) 32

/-- Why a load failed (R283): the image's length, or the host's read error in the image's place. -/
inductive LoadError where
  /-- The image is longer than 3584 bytes; the info is its length (R282). -/
  | tooLong (length : Nat)
  /-- The host could not read the file; the info is the host's report (R240, R283). -/
  | unreadable (report : String)
deriving DecidableEq, Repr

/-- The fault kinds of R240, each with the info recorded, in the spec's order (D38). A fault is taken by
`takeFault`: STATUS becomes Faulted with this record and nothing else changes (R241, R242). -/
inductive FaultRecord where
  /-- The fetched word matches no row of R74: the word and the address it was fetched from (R75, D34). -/
  | unknownOpcode (w : Word) (pcF : Word)
  /-- 00EE with SP = 0 (R121). -/
  | stackUnderflow (pcF : Word)
  /-- 2NNN with SP = P_STACK_DEPTH (R123). -/
  | stackOverflow (pcF : Word)
  /-- The load failed, before the first cycle (R283). -/
  | programLoadError (e : LoadError)
  /-- A byte address of 4096 or above: the first invalid address, unreduced, and pc_f (R51). -/
  | addressOutOfRange (a : Nat) (pcF : Word)
  /-- A fetch at an odd address while P_FETCH_ALIGN_FAULT (R101). -/
  | misalignedFetch (pcF : Word)
  /-- A computed I above 0xFFFF (R171). -/
  | indexOverflow (pcF : Word)
deriving DecidableEq, Repr

/-- Run status STATUS (R33). -/
inductive Status where
  | running
  | faulted (f : FaultRecord)
  | quit
deriving DecidableEq, Repr

/-- The host's actions from the load on (R261): one cycle with its random byte, or an event between cycles.
`load` is not among them: it happens once, before them all (`State.load`, R282). -/
inductive HostAction where
  /-- Run one cycle; `rnd` is used only by CXNN (R264). -/
  | cycle (rnd : Byte)
  /-- Key-down of a logical key code (R260). -/
  | keyDown (k : Nibble)
  /-- Key-up of a logical key code (R260). -/
  | keyUp (k : Nibble)
  /-- Timer tick, WallClock policy only (R252). -/
  | tick
  /-- Acknowledge of a presented frame (R262). -/
  | ackDirty
  /-- Read of the framebuffer port (R262). -/
  | snapshot
  /-- Quit request (R265). -/
  | quit
deriving DecidableEq, Repr

/-- The whole state: the elements of R36, then the model's own four fields, which carry what R34 calls
configuration and inputs because `step` takes nothing but a state (log 2, 5, 6). -/
structure State where
  /-- General registers V[0]..V[0xF] (R20); V[0xF] is VF (R21). -/
  v : Vector Byte 16
  /-- Program counter (R22). Between cycles it is the address of the next fetch, pc_f. -/
  pc : Word
  /-- Index register I (R23). -/
  i : Word
  /-- Stack pointer SP: entries in use (R24). -/
  sp : Nat
  /-- Call-stack entries STACK[0 .. P_STACK_DEPTH-1] (R24). -/
  stack : List Word
  /-- Delay timer DT (R25). -/
  dt : Byte
  /-- Sound timer ST (R26). -/
  st : Byte
  /-- Memory MEM (R27). -/
  mem : Memory
  /-- Framebuffer FB (R28). -/
  fb : Framebuffer
  /-- Dirty flag DIRTY (R29). -/
  dirty : Bool
  /-- Key latch KEY (R30). -/
  key : Option Nibble
  /-- Key-down event capture KDE (R31). -/
  kde : Option Nibble
  /-- Instruction-count divider TDIV (R32). -/
  tdiv : Nat
  /-- Run status STATUS (R33). -/
  status : Status
  /-- The model's own: the configuration of R5, fixed for the run (log 2). -/
  cfg : Config
  /-- The model's own: the random-byte input of the cycle being run (R264; log 5). -/
  rnd : Byte
  /-- The model's own: how many free random bytes have been taken (log 5). -/
  draws : Nat
  /-- The model's own: the host's actions still to come, first one first (R109, R261; log 6). -/
  agenda : List HostAction
deriving DecidableEq, Repr

/-- Why a step stops instead of answering a next state. -/
inductive Fault where
  /-- Raised by `step` when a cycle is asked for after a fault: no step leaves Faulted (R33, R107). The
  record is the fault that ended the run. Safe: the spec gives no step there. -/
  | runFaulted (f : FaultRecord)
  /-- Raised by `step` when a cycle is asked for after the host quit: no step leaves Quit (R33, R107).
  Safe: the spec gives no step there. -/
  | runQuit
deriving DecidableEq, Repr

/-- Why a step is refused. -/
inductive Refusal where
  /-- Raised by an arm of `exec` whose instruction has no meaning yet. No arm is left so. Safe. -/
  | notModelled (mnemonic : String)
  /-- Raised by `step` when the host's agenda holds a `tick` under the InstrCount policy, which R251 says
  the host never delivers. Safe: such a host is outside the spec (log 28). -/
  | tickUnderInstrCount
deriving DecidableEq, Repr

/-- Construction (R280): every element at its value of R36 under the configuration `c`. -/
def State.construct (c : Config) : State where
  v := Vector.replicate 16 0x00
  pc := 0x200
  i := 0x0000
  sp := 0
  stack := List.replicate c.stackDepth 0x0000
  dt := 0x00
  st := 0x00
  mem := []
  fb := Vector.replicate 32 (Vector.replicate 64 false)
  dirty := false
  key := none
  kde := none
  tdiv := 0
  status := .running
  cfg := c
  rnd := 0x00
  draws := 0
  agenda := []

/-- The machine right after reset: this hardware's configuration, constructed (R5, R36). -/
def State.reset : State := State.construct Config.hardware

end Sys2Proof.Machine
end

