-- ==== Sys2Proof/Machine/Ops.lean ====
section
/-! DEFINITION. The shared operations: registers, memory and its address decoder, taking a fault, the
program counter, the index register, the call stack and the instruction fetch. A meaning runs on the
state at the start of the cycle, so `s.pc` is `pc_f` in every definition below (R101; log 36). -/

namespace Sys2Proof.Machine

/-! ### Registers (R9, R20) -/

/-- `V[x]`. -/
def State.reg (s : State) (x : Nibble) : Byte := s.v[x.toNat]'x.isLt

/-- `V[x] <- b`. -/
def State.setReg (s : State) (x : Nibble) (b : Byte) : State :=
  { s with v := s.v.set x.toNat b x.isLt }

/-- The register file written as a whole (R177). -/
def State.writeRegs (s : State) (v : Vector Byte 16) : State := { s with v := v }

/-- The number of the flag register VF (R21). -/
def flagReg : Nibble := 0xF

/-! ### Memory (R50, R51, R57, R58) -/

/-- What an address that no write has changed reads as: the reset contents of R36, the font in
0x000..0x04F and 0x00 above it. -/
def Memory.unlisted (font : List Byte) (a : Nat) : Byte :=
  if a < Config.fontSize then font.getD a 0x00 else 0x00

/-- The byte at an address. -/
def Memory.read (font : List Byte) : Memory → Nat → Byte
  | [], a => Memory.unlisted font a
  | (k, b) :: rest, a => if k = a then b else Memory.read font rest a

/-- Put a byte at an address, keeping the canonical form: a byte equal to the reset contents is not
listed. -/
def Memory.write (font : List Byte) : Memory → Nat → Byte → Memory
  | [], a, b => if b = Memory.unlisted font a then [] else [(a, b)]
  | (k, c) :: rest, a, b =>
    if k < a then (k, c) :: Memory.write font rest a b
    else if k = a then
      if b = Memory.unlisted font a then rest else (a, b) :: rest
    else
      if b = Memory.unlisted font a then (k, c) :: rest else (a, b) :: (k, c) :: rest

/-- The canonical form: addresses strictly rising and below 4096, and no entry equal to the reset
contents. -/
abbrev Memory.WellFormed (font : List Byte) (m : Memory) : Prop :=
  m.Pairwise (fun c d => c.1 < d.1) ∧
    ∀ c ∈ m, c.1 < Config.memorySize ∧ c.2 ≠ Memory.unlisted font c.1

/-- `MEM[a]`. -/
def State.byteAt (s : State) (a : Nat) : Byte := Memory.read s.cfg.font s.mem a

/-- `MEM[a] <- b`, the address already checked. -/
def State.setByte (s : State) (a : Nat) (b : Byte) : State :=
  { s with mem := Memory.write s.cfg.font s.mem a b }

/-- The address decoder (R51) over `n` bytes from `a`: the first address of 4096 or above raises
AddressOutOfRange. Addresses are naturals, never reduced. -/
def State.checkRange (s : State) (a : Nat) : Nat → Except FaultRecord Unit
  | 0 => .ok ()
  | n + 1 =>
    if a < Config.memorySize then s.checkRange (a + 1) n
    else .error (.addressOutOfRange a s.pc)

/-- `n` one-byte MemReads from `a`, in rising order (R57, R59): each checks its own address. -/
def State.readBytes (s : State) (a : Nat) : Nat → Except FaultRecord (List Byte)
  | 0 => .ok []
  | n + 1 =>
    if a < Config.memorySize then
      match s.readBytes (a + 1) n with
      | .ok bs => .ok (s.byteAt a :: bs)
      | .error f => .error f
    else .error (.addressOutOfRange a s.pc)

/-- Put bytes from `a` on, in rising order, the addresses already checked. -/
def State.putBytes (s : State) (a : Nat) : List Byte → State
  | [] => s
  | b :: bs => (s.setByte a b).putBytes (a + 1) bs

/-- One-byte MemWrites of `bs` from `a` on (R58, R59): all addresses are checked before any byte is
written (R51, R175, R176, R242). -/
def State.storeBytes (s : State) (a : Nat) (bs : List Byte) : Except FaultRecord State :=
  match s.checkRange a bs.length with
  | .ok () => .ok (s.putBytes a bs)
  | .error f => .error f

/-! ### Taking a fault (R241, R242) -/

/-- `STATUS <- Faulted(F, v)`, the only change a fault makes (R241, R242). -/
def State.faulted (s : State) (f : FaultRecord) : State := { s with status := .faulted f }

/-- The one response to a fault: STATUS becomes Faulted with the record, and every other element keeps
its value from the start of the cycle. There is no vector and no handler (R241), and nothing returns
from a fault (R244): `step` gives a Faulted machine no further cycle (R107). -/
def takeFault (s : State) (f : FaultRecord) : Host.Outcome State Fault Refusal :=
  .next (s.faulted f)

/-- Commit the result of an instruction that can fault: its state, or the fault taken from the state `s`
at the start of the cycle. -/
def commit (s : State) : Except FaultRecord State → Host.Outcome State Fault Refusal
  | .ok t => .next t
  | .error f => takeFault s f

/-! ### Program counter (R22, R103, R120) -/

/-- The cycle's advance, `PC <- pc_f + 2` (R103). -/
def State.advance (s : State) : State := { s with pc := s.pc + 2 }

/-- `pc <- target`, over the advance (R103). -/
def State.jump (s : State) (target : Word) : State := { s with pc := target }

/-- A skip: the advance, and 2 more where the condition holds (R103, R120). -/
def State.skipIf (s : State) (c : Bool) : State :=
  { s with pc := if c then s.pc + 2 + 2 else s.pc + 2 }

/-! ### Index register (R23, R171) -/

/-- `I <- w`. -/
def State.writeIndex (s : State) (w : Word) : State := { s with i := w }

/-- `I <- n`, computed exactly: above 0xFFFF it raises IndexOverflow. -/
def State.setIndex (s : State) (n : Nat) : Except FaultRecord State :=
  if 0xFFFF < n then .error (.indexOverflow s.pc) else .ok (s.writeIndex (BitVec.ofNat 16 n))

/-! ### Timers and framebuffer (R25, R26, R28, R29) -/

/-- `DT <- b`. -/
def State.writeDelay (s : State) (b : Byte) : State := { s with dt := b }

/-- `ST <- b`. -/
def State.writeSound (s : State) (b : Byte) : State := { s with st := b }

/-- A new framebuffer; DIRTY is set with it, always (R196). -/
def State.writeDisplay (s : State) (fb : Framebuffer) : State := { s with fb := fb, dirty := true }

/-! ### Call stack (R24, R121, R123) -/

/-- Push a return address: StackOverflow at the bound. -/
def State.push (s : State) (ret : Word) : Except FaultRecord State :=
  if s.sp = s.cfg.stackDepth then .error (.stackOverflow s.pc)
  else .ok { s with stack := s.stack.set s.sp ret, sp := s.sp + 1 }

/-- Pop into PC: StackUnderflow on an empty stack. The popped entry stays in place, stale. -/
def State.popToPc (s : State) : Except FaultRecord State :=
  match s.sp with
  | 0 => .error (.stackUnderflow s.pc)
  | k + 1 => .ok { s with sp := k, pc := s.stack.getD k 0x0000 }

/-! ### Fetch (R101, R102, R104) -/

/-- The checks of R101, in its order: alignment, then the two byte addresses. -/
def State.checkFetch (s : State) : Except FaultRecord Unit :=
  if s.cfg.fetchAlignFault && s.pc.getLsbD 0 then .error (.misalignedFetch s.pc)
  else s.checkRange s.pc.toNat 2

/-- The word at PC, most significant byte first (R102). -/
def State.fetchWord (s : State) : Word :=
  wordOfBytes (s.byteAt s.pc.toNat) (s.byteAt (s.pc.toNat + 1))

/-- Fetch checks, fetch, dispatch (R100, R101, R102, R104). -/
def State.fetchInstr (s : State) : Except FaultRecord Instr :=
  match s.checkFetch with
  | .error f => .error f
  | .ok () =>
    match decodeWord s.fetchWord with
    | some i => .ok i
    | none => .error (.unknownOpcode s.fetchWord s.pc)

end Sys2Proof.Machine
end

