-- ==== Sys2Proof/Machine/Boot.lean ====
section
/-! DEFINITION. The program load, once, after reset and before the first cycle (R282, R283, R284). -/

namespace Sys2Proof.Machine

/-- What the host delivers as the program: the bytes, or its read error in their place (R283). -/
inductive LoadInput where
  | image (bytes : List Byte)
  | unreadable (report : String)
deriving DecidableEq, Repr

/-- `load(image)` (R282): the bytes to 0x200 on, verbatim; an image over 3584 bytes, or a read error,
is a ProgramLoadError and no byte is written. -/
def State.load (s : State) : LoadInput → State
  | .image bytes =>
    if Config.maxImage < bytes.length then
      s.faulted (.programLoadError (.tooLong bytes.length))
    else s.putBytes Config.programBase bytes
  | .unreadable report => s.faulted (.programLoadError (.unreadable report))

/-- The boot order of R284: construct, load. The actions the host then performs are the agenda. -/
def boot (c : Config) (program : LoadInput) (agenda : List HostAction) : State :=
  { (State.construct c).load program with agenda := agenda }

end Sys2Proof.Machine
end

