-- ==== Sys2Proof/Machine/Flags.lean ====
section
/-! DEFINITION. The flag computations (R154) and the order in which a result and its flag are written
(R140). Each computation answers the 8-bit result and the flag, from operands read beforehand. -/

namespace Sys2Proof.Machine

/-- A flag as VF holds it (R154). -/
def flagByte (f : Bool) : Byte := if f then 0x01 else 0x00

/-- `a + b` on 9 bits: the low 8 bits, and the carry out of bit 7 (R147). -/
def addWithCarry (a b : Byte) : Byte × Bool :=
  (BitVec.ofNat 8 (a.toNat + b.toNat), decide (255 < a.toNat + b.toNat))

/-- `(a - b) mod 256`, and NOT-borrow: true when the exact difference is not negative (R148, R150). -/
def subNotBorrow (a b : Byte) : Byte × Bool :=
  (BitVec.ofInt 8 ((a.toNat : Int) - (b.toNat : Int)), decide (0 ≤ (a.toNat : Int) - (b.toNat : Int)))

/-- `s >> 1`, and the bit shifted out of the low end (R149). -/
def shiftRightOut (b : Byte) : Byte × Bool := (b >>> 1, b.getLsbD 0)

/-- `(s << 1) mod 256`, and the bit shifted out of the high end (R151). -/
def shiftLeftOut (b : Byte) : Byte × Bool := (b <<< 1, b.getLsbD 7)

/-- FX1E's flag: the sum is beyond the addressable range 0x000..0xFFF (R173, D13). -/
def beyondRange (n : Nat) : Bool := decide (0xFFF < n)

/-- `VF <- flag`. -/
def State.setFlag (s : State) (f : Bool) : State := s.setReg flagReg (flagByte f)

/-- Result to V[X] first, then the flag to VF, so that the flag survives X = F (R140, D7). -/
def State.setResultFlag (s : State) (x : Nibble) (r : Byte × Bool) : State :=
  (s.setReg x r.1).setFlag r.2

/-- FX1E's write of VF: only when `P_FX1E_VF` (R173). -/
def State.setIndexFlag (s : State) (f : Bool) : State :=
  { s with v := if s.cfg.fx1eVf then (s.setFlag f).v else s.v }

end Sys2Proof.Machine
end

