-- ==== Sys2Proof/Machine/Operands.lean ====
section
/-! DEFINITION. The operand forms of the instructions: immediates extended to 16 bits (R72), the shift
source and the jump offset the quirk flags select (R128, R149), the effective address (R172), the BCD
digits (R175), register lists (R176, R177) and the key comparison (R210). -/

namespace Sys2Proof.Machine

/-- `zext_16(NNN)` (R72). -/
def addrOfImm (nnn : Addr12) : Word := nnn.setWidth 16

/-- `zext_8(k)` of a key code (R210, R213). -/
def byteOfKey (k : Nibble) : Byte := k.setWidth 8

/-- The effective address of every memory operand: I, exact and unmasked (R23, R172). -/
def State.indexAddr (s : State) : Nat := s.i.toNat

/-- The shift source of 8XY6 and 8XYE: V[Y] when `P_SHIFT_USES_VY`, else V[X] (R149, R151). -/
def State.shiftSource (s : State) (x y : Nibble) : Byte :=
  if s.cfg.shiftUsesVy then s.reg y else s.reg x

/-- The offset of BNNN: V[X] with X the top nibble of NNN when `P_JUMP_VX`, else V[0] (R128). -/
def State.jumpOffset (s : State) (nnn : Addr12) : Byte :=
  if s.cfg.jumpVx then s.reg (nnn.extractLsb' 8 4) else s.reg 0x0

/-- The target of BNNN: NNN + offset, exact in 16 bits (R128). -/
def State.offsetTarget (s : State) (nnn : Addr12) : Word :=
  addrOfImm nnn + (s.jumpOffset nnn).setWidth 16

/-- The address of the glyph of V[X]'s low digit: `(V[X] & 0xF) * 5` (R54, R174). -/
def glyphAddr (b : Byte) : Word := BitVec.ofNat 16 (b.toNat % 16 * Config.glyphSize)

/-- Hundreds, tens and units of a byte (R175). -/
def bcdDigits (b : Byte) : List Byte :=
  [BitVec.ofNat 8 (b.toNat / 100), BitVec.ofNat 8 (b.toNat / 10 % 10), BitVec.ofNat 8 (b.toNat % 10)]

/-- How many registers V[0]..V[X] are (R176, R177). -/
def regCount (x : Nibble) : Nat := x.toNat + 1

/-- V[0]..V[X] as the bytes FX55 stores (R176). -/
def State.regsUpTo (s : State) (x : Nibble) : List Byte := s.v.toList.take (regCount x)

/-- Registers from number `k` on take the bytes of the list, in order (R177). -/
def putRegs (v : Vector Byte 16) (k : Nat) : List Byte → Vector Byte 16
  | [] => v
  | b :: bs => putRegs (v.setIfInBounds k b) (k + 1) bs

/-- I after FX55 and FX65: advanced by X+1 when `P_LS_ADVANCE_I`, else unchanged. Once the accesses are in
range the sum is at most 0x1000, so it is exact in 16 bits (R176, R177; log 32). -/
def State.advancedIndex (s : State) (x : Nibble) : Word :=
  if s.cfg.lsAdvanceI then s.i + BitVec.ofNat 16 (regCount x) else s.i

/-- KEY = some k and zext_8(k) = V[X], on all 8 bits (R210, D11). -/
def State.keyMatches (s : State) (x : Nibble) : Bool :=
  match s.key with
  | some k => byteOfKey k == s.reg x
  | none => false

end Sys2Proof.Machine
end

