-- ==== Sys2Proof/Machine/Alu.lean ====
section
/-! DEFINITION. The ALU (42_alu.md): loads, arithmetic, logic, shifts and the random byte. Operands are
read from the state before the instruction, the result is written, then the flag (R140). -/

namespace Sys2Proof.Machine

/-- `6XNN` (R141). -/
def execLdImm (x : Nibble) (nn : Byte) (s : State) : Host.Outcome State Fault Refusal :=
  .next (s.advance.setReg x nn)

/-- `7XNN` (R142): wraps, no flag. -/
def execAddImm (x : Nibble) (nn : Byte) (s : State) : Host.Outcome State Fault Refusal :=
  .next (s.advance.setReg x (addWithCarry (s.reg x) nn).1)

/-- `8XY0` (R143). -/
def execLdReg (x y : Nibble) (s : State) : Host.Outcome State Fault Refusal :=
  .next (s.advance.setReg x (s.reg y))

/-- `8XY1` (R144): VF is kept unless X = F (D24). -/
def execOrReg (x y : Nibble) (s : State) : Host.Outcome State Fault Refusal :=
  .next (s.advance.setReg x (s.reg x ||| s.reg y))

/-- `8XY2` (R145): VF is kept unless X = F (D24). -/
def execAndReg (x y : Nibble) (s : State) : Host.Outcome State Fault Refusal :=
  .next (s.advance.setReg x (s.reg x &&& s.reg y))

/-- `8XY3` (R146): VF is kept unless X = F (D24). -/
def execXorReg (x y : Nibble) (s : State) : Host.Outcome State Fault Refusal :=
  .next (s.advance.setReg x (s.reg x ^^^ s.reg y))

/-- `8XY4` (R147). -/
def execAddReg (x y : Nibble) (s : State) : Host.Outcome State Fault Refusal :=
  .next (s.advance.setResultFlag x (addWithCarry (s.reg x) (s.reg y)))

/-- `8XY5` (R148). -/
def execSubReg (x y : Nibble) (s : State) : Host.Outcome State Fault Refusal :=
  .next (s.advance.setResultFlag x (subNotBorrow (s.reg x) (s.reg y)))

/-- `8XY6` (R149). -/
def execShr (x y : Nibble) (s : State) : Host.Outcome State Fault Refusal :=
  .next (s.advance.setResultFlag x (shiftRightOut (s.shiftSource x y)))

/-- `8XY7` (R150). -/
def execSubnReg (x y : Nibble) (s : State) : Host.Outcome State Fault Refusal :=
  .next (s.advance.setResultFlag x (subNotBorrow (s.reg y) (s.reg x)))

/-- `8XYE` (R151). -/
def execShl (x y : Nibble) (s : State) : Host.Outcome State Fault Refusal :=
  .next (s.advance.setResultFlag x (shiftLeftOut (s.shiftSource x y)))

/-- `CXNN` (R152): the random byte is the cycle's input, under no law (R264, D22). -/
def execRnd (x : Nibble) (nn : Byte) (s : State) : Host.Outcome State Fault Refusal :=
  .next (s.advance.setReg x (s.rnd &&& nn))

end Sys2Proof.Machine
end

