-- ==== Sys2Proof/Machine/ControlFlow.lean ====
section
/-! DEFINITION. Control flow (41_control_flow.md): return, jumps, call and the register skips. -/

namespace Sys2Proof.Machine

/-- `00EE` (R121): pop PC; StackUnderflow on an empty stack. -/
def execRet (s : State) : Host.Outcome State Fault Refusal := commit s s.popToPc

/-- `1NNN` (R122). -/
def execJp (nnn : Addr12) (s : State) : Host.Outcome State Fault Refusal :=
  .next (s.jump (addrOfImm nnn))

/-- `2NNN` (R123): push the advanced PC, then jump; StackOverflow at the bound. -/
def execCall (nnn : Addr12) (s : State) : Host.Outcome State Fault Refusal :=
  commit s (match s.push (s.pc + 2) with
    | .ok t => .ok (t.jump (addrOfImm nnn))
    | .error f => .error f)

/-- `3XNN` (R124). -/
def execSeImm (x : Nibble) (nn : Byte) (s : State) : Host.Outcome State Fault Refusal :=
  .next (s.skipIf (s.reg x == nn))

/-- `4XNN` (R125). -/
def execSneImm (x : Nibble) (nn : Byte) (s : State) : Host.Outcome State Fault Refusal :=
  .next (s.skipIf (s.reg x != nn))

/-- `5XY0` (R126). -/
def execSeReg (x y : Nibble) (s : State) : Host.Outcome State Fault Refusal :=
  .next (s.skipIf (s.reg x == s.reg y))

/-- `9XY0` (R127). -/
def execSneReg (x y : Nibble) (s : State) : Host.Outcome State Fault Refusal :=
  .next (s.skipIf (s.reg x != s.reg y))

/-- `BNNN` (R128): the sum is not reduced, and not checked before the next fetch (R120). -/
def execJpOffset (nnn : Addr12) (s : State) : Host.Outcome State Fault Refusal :=
  .next (s.jump (s.offsetTarget nnn))

end Sys2Proof.Machine
end

