-- ==== Sys2Proof/Machine/Display.lean ====
section
/-! DEFINITION. Framebuffer and XOR-collision detector (44_display.md). -/

namespace Sys2Proof.Machine

/-- `FB[x][y]`, coordinates reduced as R195 reduces them. -/
def Framebuffer.cell (fb : Framebuffer) (x y : Nat) : Bool :=
  (fb[y % 32]'(Nat.mod_lt _ (by decide)))[x % 64]'(Nat.mod_lt _ (by decide))

/-- `FB[x][y] <- FB[x][y] ^ 1` (R193). -/
def Framebuffer.flip (fb : Framebuffer) (x y : Nat) : Framebuffer :=
  let row := fb[y % 32]'(Nat.mod_lt _ (by decide))
  fb.set (y % 32) (row.set (x % 64) (!fb.cell x y) (Nat.mod_lt _ (by decide)))
    (Nat.mod_lt _ (by decide))

/-- Every cell clear (R192). -/
def Framebuffer.clear : Framebuffer := Vector.replicate 32 (Vector.replicate 64 false)

/-- One sprite pixel with a 1 bit: the cell toggles, and a cell that was set is a collision
(R193, R194). -/
def plot (d : Framebuffer × Bool) (x y : Nat) : Framebuffer × Bool :=
  (d.1.flip x y, d.2 || d.1.cell x y)

/-- One sprite row: bit `7 - c` of the row byte is drawn at column `x0 + c` (R191, R193). -/
def drawRow (d : Framebuffer × Bool) (x0 y : Nat) (row : Byte) : Framebuffer × Bool :=
  (List.range 8).foldl (fun d c => if row.getLsbD (7 - c) then plot d (x0 + c) y else d) d

/-- The sprite's rows, top first, from row `y` down (R193). -/
def drawRows (d : Framebuffer × Bool) (x0 y : Nat) : List Byte → Framebuffer × Bool
  | [] => d
  | row :: rows => drawRows (drawRow d x0 y row) x0 (y + 1) rows

/-- A sprite drawn at an origin: the new framebuffer and the collision bit (R193, R194). -/
def drawSprite (fb : Framebuffer) (x0 y0 : Nat) (rows : List Byte) : Framebuffer × Bool :=
  drawRows (fb, false) x0 y0 rows

/-- `00E0` (R192): DIRTY is set even if FB was already clear. -/
def execCls (s : State) : Host.Outcome State Fault Refusal :=
  .next (s.advance.writeDisplay Framebuffer.clear)

/-- `DXYN` (R193): all N bytes are read before a cell changes; DIRTY is set on every draw (D32); VF is
written last, from coordinates read before. -/
def execDrw (x y n : Nibble) (s : State) : Host.Outcome State Fault Refusal :=
  commit s (match s.readBytes s.indexAddr n.toNat with
    | .ok rows =>
      let d := drawSprite s.fb ((s.reg x).toNat % 64) ((s.reg y).toNat % 32) rows
      .ok ((s.advance.writeDisplay d.1).setFlag d.2)
    | .error f => .error f)

end Sys2Proof.Machine
end

