-- ==== Sys2Proof/Machine/IndexMemory.lean ====
section
/-! DEFINITION. Index register and memory instructions (43_index_memory.md). -/

namespace Sys2Proof.Machine

/-- `ANNN` (R170). -/
def execLdIndex (nnn : Addr12) (s : State) : Host.Outcome State Fault Refusal :=
  .next (s.advance.writeIndex (addrOfImm nnn))

/-- `FX1E` (R173): the exact sum to I, IndexOverflow above 0xFFFF (R171), then VF when `P_FX1E_VF`. -/
def execAddIndex (x : Nibble) (s : State) : Host.Outcome State Fault Refusal :=
  commit s (match s.setIndex (s.i.toNat + (s.reg x).toNat) with
    | .ok t => .ok (t.advance.setIndexFlag (beyondRange (s.i.toNat + (s.reg x).toNat)))
    | .error f => .error f)

/-- `FX29` (R174): the high nibble of V[X] is ignored. -/
def execLdGlyph (x : Nibble) (s : State) : Host.Outcome State Fault Refusal :=
  .next (s.advance.writeIndex (glyphAddr (s.reg x)))

/-- `FX33` (R175): I is unchanged (D25). -/
def execStoreBcd (x : Nibble) (s : State) : Host.Outcome State Fault Refusal :=
  commit s (match s.storeBytes s.indexAddr (bcdDigits (s.reg x)) with
    | .ok t => .ok t.advance
    | .error f => .error f)

/-- `FX55` (R176). -/
def execStoreRegs (x : Nibble) (s : State) : Host.Outcome State Fault Refusal :=
  commit s (match s.storeBytes s.indexAddr (s.regsUpTo x) with
    | .ok t => .ok (t.advance.writeIndex (s.advancedIndex x))
    | .error f => .error f)

/-- `FX65` (R177): every byte is read before a register is written. -/
def execLoadRegs (x : Nibble) (s : State) : Host.Outcome State Fault Refusal :=
  commit s (match s.readBytes s.indexAddr (regCount x) with
    | .ok bs => .ok ((s.advance.writeRegs (putRegs s.v 0 bs)).writeIndex (s.advancedIndex x))
    | .error f => .error f)

end Sys2Proof.Machine
end

