-- ==== Sys2Proof/Machine/TimersKeys.lean ====
section
/-! DEFINITION. Timer and key instructions (45_timers_keys.md). -/

namespace Sys2Proof.Machine

/-- `EX9E` (R210). -/
def execSkp (x : Nibble) (s : State) : Host.Outcome State Fault Refusal :=
  .next (s.skipIf (s.keyMatches x))

/-- `EXA1` (R211): the exact complement, no key included. -/
def execSknp (x : Nibble) (s : State) : Host.Outcome State Fault Refusal :=
  .next (s.skipIf (!s.keyMatches x))

/-- `FX07` (R212). -/
def execLdFromDelay (x : Nibble) (s : State) : Host.Outcome State Fault Refusal :=
  .next (s.advance.setReg x s.dt)

/-- `FX0A` (R213): with no key-down since the previous cycle, PC stays at pc_f, so that the next cycle
fetches the instruction again (D9). VF is no flag of it (R21). -/
def execLdKey (x : Nibble) (s : State) : Host.Outcome State Fault Refusal :=
  match s.kde with
  | none => .next (s.jump s.pc)
  | some k => .next (s.advance.setReg x (byteOfKey k))

/-- `FX15` (R214). -/
def execLdDelay (x : Nibble) (s : State) : Host.Outcome State Fault Refusal :=
  .next (s.advance.writeDelay (s.reg x))

/-- `FX18` (R215). -/
def execLdSound (x : Nibble) (s : State) : Host.Outcome State Fault Refusal :=
  .next (s.advance.writeSound (s.reg x))

end Sys2Proof.Machine
end

