-- ==== Sys2Proof/Machine/Timers.lean ====
section
/-! DEFINITION. The timer decrementer (R250, R251) and the end of a cycle (R106). -/

namespace Sys2Proof.Machine

/-- One timer's tick: down by one, saturating at 0 (R250). -/
def tickDown (b : Byte) : Byte := if b = 0 then 0 else b - 1

/-- `timer_tick()`: both timers together (R250, D16). -/
def State.timerTick (s : State) : State := { s with dt := tickDown s.dt, st := tickDown s.st }

/-- Does this cycle's end complete `P_TIMER_DIV` cycles? (R251) -/
def State.dividerFull (s : State) : Bool := s.tdiv + 1 == s.cfg.timerDiv

/-- `instr_count_tick()`: TDIV counts the cycle, and the timers tick when it is full (R251). -/
def State.instrCountTick (s : State) : State :=
  { s with
    dt := if s.dividerFull then s.timerTick.dt else s.dt
    st := if s.dividerFull then s.timerTick.st else s.st
    tdiv := if s.dividerFull then 0 else s.tdiv + 1 }

/-- Is the policy InstrCount? -/
def State.countsInstrs (s : State) : Bool := s.cfg.timerPolicy == .instrCount

/-- `end_of_cycle()` (R106): the InstrCount tick, if that is the policy, then KDE is cleared. -/
def State.endOfCycle (s : State) : State :=
  { s with
    dt := if s.countsInstrs then s.instrCountTick.dt else s.dt
    st := if s.countsInstrs then s.instrCountTick.st else s.st
    tdiv := if s.countsInstrs then s.instrCountTick.tdiv else s.tdiv
    kde := none }

end Sys2Proof.Machine
end

