-- ==== Sys2Proof/Machine/HostPort.lean ====
section
/-! DEFINITION. The host's events between cycles and the block's outputs (R260..R265). -/

namespace Sys2Proof.Machine

/-- `keyDown(k)`: KEY and KDE take the code (R260). -/
def State.keyDown (s : State) (k : Nibble) : State := { s with key := some k, kde := some k }

/-- `keyUp(k)`: KEY becomes none, whichever key it is (R260, D10). -/
def State.keyUp (s : State) (_k : Nibble) : State := { s with key := none }

/-- `ackDirty` (R262). -/
def State.ackDirty (s : State) : State := { s with dirty := false }

/-- `quit`: STATUS becomes Quit if Running, else nothing changes (R265). -/
def State.quitRun (s : State) : State :=
  { s with status := if s.status = .running then .quit else s.status }

/-- `tick`: one timer tick under WallClock (R252). Under InstrCount the host delivers none (R251). -/
def State.hostTick (s : State) : Host.Outcome State Fault Refusal :=
  match s.cfg.timerPolicy with
  | .wallClock => .next s.timerTick
  | .instrCount => .refused .tickUnderInstrCount

/-- Output `fb`: the framebuffer as it stands; reading it changes nothing (R262). -/
def State.fbOut (s : State) : Framebuffer := s.fb

/-- Output `dirty` (R261). -/
def State.dirtyOut (s : State) : Bool := s.dirty

/-- Output `sound_on`: ST ≠ 0 (R263). -/
def State.soundOn (s : State) : Bool := s.st != 0

/-- Output `status` (R261). -/
def State.statusOut (s : State) : Status := s.status

/-- The number of a fault kind, 0 to 6 in the order of R240 (D38). It has no architectural meaning. -/
def faultNumber : FaultRecord → Nat
  | .unknownOpcode _ _ => 0
  | .stackUnderflow _ => 1
  | .stackOverflow _ => 2
  | .programLoadError _ => 3
  | .addressOutOfRange _ _ => 4
  | .misalignedFetch _ => 5
  | .indexOverflow _ => 6

end Sys2Proof.Machine
end

