-- ==== Sys2Proof/Machine/Cycle.lean ====
section
/-! DEFINITION. The fetch-decode-execute cycle (40_engine_cycle.md) and the machine's answer to one action
of the host (R261). -/

namespace Sys2Proof.Machine

/-- What follows the instruction's effect: `end_of_cycle()` where the instruction completed, nothing
where it took a fault (R100, R106, R242). -/
def finishCycle : Host.Outcome State Fault Refusal → Host.Outcome State Fault Refusal
  | .next t => .next (match t.status with
    | .running => t.endOfCycle
    | .faulted _ => t
    | .quit => t)
  | .fault r => .fault r
  | .refused r => .refused r

/-- The cycle's random-byte input, where CXNN reads it (R264). -/
def State.latchRnd (s : State) (rnd : Byte) : State := { s with rnd := rnd }

/-- The body of a cycle (R100): fetch and dispatch, then the instruction and the end of the cycle. A fault
of the fetch or of dispatch is taken from the state at the start of the cycle, as the instruction's own
is (R242, R243). -/
def runCycle (s : State) : Host.Outcome State Fault Refusal :=
  match s.fetchInstr with
  | .ok i => finishCycle (exec i s)
  | .error f => takeFault s f

/-- `cycle(rnd)` (R100): only while Running; no step leaves Faulted or Quit (R33, R107). -/
def cycle (rnd : Byte) (s : State) : Host.Outcome State Fault Refusal :=
  match s.status with
  | .running => runCycle (s.latchRnd rnd)
  | .faulted f => .fault (.runFaulted f)
  | .quit => .fault .runQuit

/-- One action of the host (R261). -/
def act (a : HostAction) (s : State) : Host.Outcome State Fault Refusal :=
  match a with
  | .cycle rnd => cycle rnd s
  | .keyDown k => .next (s.keyDown k)
  | .keyUp k => .next (s.keyUp k)
  | .tick => s.hostTick
  | .ackDirty => .next s.ackDirty
  | .snapshot => .next s
  | .quit => .next s.quitRun

/-- The state with a program word where the next fetch finds it, for `withFetchWord`: two bytes at `a`,
most significant first (R102). -/
def State.putWord (s : State) (a : Nat) (w : Word) : State :=
  s.putBytes a [highByte w, lowByte w]

/-- Does the fetch at PC pass the checks of R101? -/
def State.fetchable (s : State) : Bool :=
  match s.checkFetch with
  | .ok () => true
  | .error _ => false

/-- The agenda with its first action taken off. -/
def State.setAgenda (s : State) (rest : List HostAction) : State := { s with agenda := rest }

/-- One more free random byte taken (log 5). -/
def State.countDraw (s : State) : State := { s with draws := s.draws + 1 }

/-- Is the action a cycle? -/
def isCycle : HostAction → Bool
  | .cycle _ => true
  | .keyDown _ => false
  | .keyUp _ => false
  | .tick => false
  | .ackDirty => false
  | .snapshot => false
  | .quit => false

/-- The state whose next step is a cycle with a fetch that passes its checks: Running, PC kept where it
can be fetched from and else at the program base, events that stand before the next cycle dropped. -/
def State.readyToFetch (s : State) : State :=
  { s with
    status := .running
    pc := if s.fetchable then s.pc else BitVec.ofNat 16 Config.programBase
    agenda := s.agenda.dropWhile (fun a => !isCycle a) }

end Sys2Proof.Machine
end

