-- ==== Sys2Proof/Machine/Step.lean ====
section
/-! DEFINITION. The step: the next action of the host's agenda, or, where the agenda is empty, one cycle
with a free random byte (log 5, 6). -/

namespace Sys2Proof.Machine

/-- One step (R109, R261). The spec lets any finite sequence of events come between two cycles; the agenda
is that sequence, as data, and claims about every state are claims about every agenda. -/
def step (s : State) : Host.Outcome State Fault Refusal :=
  match s.agenda with
  | [] => act (.cycle (Config.randomByte s.draws)) s.countDraw
  | a :: rest => act a (s.setAgenda rest)

/-- The state whose very next step fetches and runs the word `w` of `nbits` bits (log 11, 12). -/
def State.withFetchWord (s : State) (nbits w : Nat) : State :=
  s.readyToFetch.putWord s.readyToFetch.pc.toNat (BitVec.ofNat 16 (w % 2 ^ nbits))

end Sys2Proof.Machine
end

