-- ==== Sys2Proof/WellFormed.lean ====
section
/-! DEFINITION. What makes the inputs of the model well formed: the configuration (R5) and the program
image (R282). An `Instr` needs no check of its own: each operand has exactly the width of its field
in the encoding (R71), and every register number names an existing register (R20), so no ill-formed
instruction can be written down. -/

namespace Sys2Proof

/-- The limits R5 puts on the parameters: a divider and a depth of at least 1, a font of 80 bytes. -/
abbrev Config.WellFormed (c : Config) : Prop :=
  1 ≤ c.timerDiv ∧ 1 ≤ c.stackDepth ∧ c.font.length = Config.fontSize

/-- The bound R282 puts on a program image: any length from 0 to 3584, odd or even (D33). -/
abbrev ImageWellFormed (image : List Byte) : Prop :=
  image.length ≤ Config.maxImage

end Sys2Proof
end

