-- ==== Sys2Proof/Safety.lean ====
section
/-! DEFINITION. The words claims are made in: the invariant of the state, what an instruction leaves
unchanged, and what a safe run is. -/

namespace Sys2Proof.Machine

/-- What holds of every state a run reaches: the limits of R5, R22, R24, R32 and the canonical form of
memory. -/
structure State.Inv (s : State) : Prop where
  /-- The parameters are within R5's limits. -/
  config : s.cfg.WellFormed
  /-- Memory is in canonical form, every listed address below 4096. -/
  memory : Memory.WellFormed s.cfg.font s.mem
  /-- STACK has P_STACK_DEPTH entries (R24). -/
  stackLength : s.stack.length = s.cfg.stackDepth
  /-- 0 ≤ SP ≤ P_STACK_DEPTH (R24). -/
  spBound : s.sp ≤ s.cfg.stackDepth
  /-- 0 ≤ TDIV < P_TIMER_DIV (R32). -/
  tdivBound : s.tdiv < s.cfg.timerDiv
  /-- No rule can produce a PC above 0x10FE (R22). -/
  pcBound : s.pc.toNat ≤ 0x10FE
  /-- A saved PC is at most 0x1000 (R103, R123). -/
  stackBound : ∀ r ∈ s.stack, r.toNat ≤ 0x1000

/-- Every byte of memory reads as before. -/
def SameBytes (s t : State) : Prop := ∀ a, t.byteAt a = s.byteAt a

/-- Every byte outside the `n` bytes from `a` on reads as before. -/
def SameBytesOutside (s t : State) (a n : Nat) : Prop :=
  ∀ b, b < a ∨ a + n ≤ b → t.byteAt b = s.byteAt b

/-- Nothing but PC changed. -/
def OnlyPc (s t : State) : Prop := t = { s with pc := t.pc } ∧ SameBytes s t

/-- Nothing but general registers and PC changed. -/
def OnlyRegsPc (s t : State) : Prop := t = { s with v := t.v, pc := t.pc } ∧ SameBytes s t

/-- Every register but V[x] is as before. -/
def RegsKeptBut (s t : State) (x : Nibble) : Prop := ∀ r, r ≠ x → t.reg r = s.reg r

/-- Every register but V[x] and VF is as before. -/
def RegsKeptButFlag (s t : State) (x : Nibble) : Prop :=
  ∀ r, r ≠ x → r ≠ flagReg → t.reg r = s.reg r

/-- The sprite DXYN draws from `s` has a 1 bit on the cell (cx, cy): row r of the N bytes at I, column c,
most significant bit leftmost, from the reduced origin, wrapped (R191, R193, R195). -/
def SpriteTouches (s : State) (x y n : Nibble) (cx cy : Nat) : Prop :=
  ∃ r c, r < n.toNat ∧ c < 8 ∧ ((s.reg x).toNat % 64 + c) % 64 = cx ∧
    ((s.reg y).toNat % 32 + r) % 32 = cy ∧ (s.byteAt (s.indexAddr + r)).getLsbD (7 - c) = true

/-- Every byte DXYN reads exists: none is read, or the last is below 4096 (R193). -/
def SpriteInRange (s : State) (n : Nibble) : Prop :=
  n.toNat = 0 ∨ s.indexAddr + n.toNat ≤ Config.memorySize

/-- The fetch at PC passes the checks of R101. -/
def FetchPasses (s : State) : Prop :=
  (s.cfg.fetchAlignFault = true → s.pc.toNat % 2 = 0) ∧ s.pc.toNat ≤ 0xFFE

/-- The general registers an instruction names as destinations (R37, R141..R152, R177, R212, R213): V[X], or
V[0]..V[X] for FX65. VF as a flag is `writesFlag`. -/
def writesReg : Instr → Nibble → Bool
  | .ldImm x _, r => r == x
  | .addImm x _, r => r == x
  | .ldReg x _, r => r == x
  | .orReg x _, r => r == x
  | .andReg x _, r => r == x
  | .xorReg x _, r => r == x
  | .addReg x _, r => r == x
  | .subReg x _, r => r == x
  | .shr x _, r => r == x
  | .subnReg x _, r => r == x
  | .shl x _, r => r == x
  | .rnd x _, r => r == x
  | .ldFromDelay x, r => r == x
  | .ldKey x, r => r == x
  | .loadRegs x, r => decide (r.toNat ≤ x.toNat)
  | .cls, _ | .ret, _ | .jp _, _ | .call _, _ | .seImm _ _, _ | .sneImm _ _, _ | .seReg _ _, _
  | .sneReg _ _, _ | .ldIndex _, _ | .jpOffset _, _ | .drw _ _ _, _ | .skp _, _ | .sknp _, _
  | .ldDelay _, _ | .ldSound _, _ | .addIndex _, _ | .ldGlyph _, _ | .storeBcd _, _
  | .storeRegs _, _ => false

/-- The flag table of R154: the instructions that write VF as a flag, FX1E among them only when
`P_FX1E_VF`. -/
def writesFlag (c : Config) : Instr → Bool
  | .addReg _ _ | .subReg _ _ | .shr _ _ | .subnReg _ _ | .shl _ _ | .drw _ _ _ => true
  | .addIndex _ => c.fx1eVf
  | .cls | .ret | .jp _ | .call _ | .seImm _ _ | .sneImm _ _ | .seReg _ _ | .ldImm _ _ | .addImm _ _
  | .ldReg _ _ | .orReg _ _ | .andReg _ _ | .xorReg _ _ | .sneReg _ _ | .ldIndex _ | .jpOffset _
  | .rnd _ _ | .skp _ | .sknp _ | .ldFromDelay _ | .ldKey _ | .ldDelay _ | .ldSound _ | .ldGlyph _
  | .storeBcd _ | .storeRegs _ | .loadRegs _ => false

/-- The instructions that set PC over the advance (R37). -/
def setsPc : Instr → Bool
  | .ret | .jp _ | .call _ | .jpOffset _ => true
  | .cls | .seImm _ _ | .sneImm _ _ | .seReg _ _ | .ldImm _ _ | .addImm _ _ | .ldReg _ _ | .orReg _ _
  | .andReg _ _ | .xorReg _ _ | .addReg _ _ | .subReg _ _ | .shr _ _ | .subnReg _ _ | .shl _ _
  | .sneReg _ _ | .ldIndex _ | .rnd _ _ | .drw _ _ _ | .skp _ | .sknp _ | .ldFromDelay _ | .ldKey _
  | .ldDelay _ | .ldSound _ | .addIndex _ | .ldGlyph _ | .storeBcd _ | .storeRegs _ | .loadRegs _ => false

/-- The six skips (R37). -/
def isSkip : Instr → Bool
  | .seImm _ _ | .sneImm _ _ | .seReg _ _ | .sneReg _ _ | .skp _ | .sknp _ => true
  | .cls | .ret | .jp _ | .call _ | .ldImm _ _ | .addImm _ _ | .ldReg _ _ | .orReg _ _ | .andReg _ _
  | .xorReg _ _ | .addReg _ _ | .subReg _ _ | .shr _ _ | .subnReg _ _ | .shl _ _ | .ldIndex _
  | .jpOffset _ | .rnd _ _ | .drw _ _ _ | .ldFromDelay _ | .ldKey _ | .ldDelay _ | .ldSound _
  | .addIndex _ | .ldGlyph _ | .storeBcd _ | .storeRegs _ | .loadRegs _ => false

/-- The instructions that can raise a fault of their own (R243). -/
def canFault : Instr → Bool
  | .ret | .call _ | .addIndex _ | .drw _ _ _ | .storeBcd _ | .storeRegs _ | .loadRegs _ => true
  | .cls | .jp _ | .seImm _ _ | .sneImm _ _ | .seReg _ _ | .ldImm _ _ | .addImm _ _ | .ldReg _ _
  | .orReg _ _ | .andReg _ _ | .xorReg _ _ | .addReg _ _ | .subReg _ _ | .shr _ _ | .subnReg _ _
  | .shl _ _ | .sneReg _ _ | .ldIndex _ | .jpOffset _ | .rnd _ _ | .skp _ | .sknp _ | .ldFromDelay _
  | .ldKey _ | .ldDelay _ | .ldSound _ | .ldGlyph _ => false

/-- The same configuration, delay timer and divider: what the next cycle's count of DT looks at. -/
def SameTimer (s t : State) : Prop := t.cfg = s.cfg ∧ t.dt = s.dt ∧ t.tdiv = s.tdiv

/-- `k` steps from `s` are next states, each of them Running, and so is `s`: the run meets no fault and
no quit. -/
def SafeFor : Nat → State → Prop
  | 0, s => s.status = .running
  | k + 1, s => s.status = .running ∧ ∃ t, step s = .next t ∧ SafeFor k t

end Sys2Proof.Machine
end

