-- ==== Sys2Proof/Certificates/Slice0/Obligations.lean ====
section
/-! DEFINITION. The statements for the provers. Each docstring names the rule of spec/ it formalises. A
meaning runs on the state at the start of its cycle, so `s.pc` is pc_f in the statements about `exec`. -/

open Sys2Proof Sys2Proof.Machine

/-! ### Encoding (30_encoding.md) -/

/-- R80's word, and words of other families with unknown words, written out from R70, R74 and R75. That
0x01E0, 0x5121 and 0x9121 are unknown is the spec's own decision D35 (log 31). -/
def Obligations.SampleWordsDecodeToTheirRows : Prop :=
  (fieldN1 0x1234 = 1 ∧ fieldX 0x1234 = 2 ∧ fieldY 0x1234 = 3 ∧ fieldN 0x1234 = 4 ∧
    fieldNN 0x1234 = 0x34 ∧ fieldNNN 0x1234 = 0x234 ∧ decodeWord 0x1234 = some (.jp 0x234)) ∧
  (decodeWord 0x00E0 = some .cls ∧ decodeWord 0x00EE = some .ret ∧
    decodeWord 0x812E = some (.shl 1 2) ∧ decodeWord 0xABCD = some (.ldIndex 0xBCD) ∧
    decodeWord 0xD12F = some (.drw 1 2 15) ∧ decodeWord 0xE19E = some (.skp 1) ∧
    decodeWord 0xFF65 = some (.loadRegs 15)) ∧
  (decodeWord 0x0000 = none ∧ decodeWord 0x01E0 = none ∧ decodeWord 0x5121 = none ∧
    decodeWord 0x8128 = none ∧ decodeWord 0x9121 = none ∧ decodeWord 0xE000 = none ∧
    decodeWord 0xF0FF = none)

/-- R70, R71, R72, R74: no bit of an encoding is dropped. Every operand has its field's width, so every
instruction is well formed. -/
def Obligations.EncodeThenDecodeGivesTheInstruction : Prop :=
  ∀ (i : Instr) (rest : List Byte),
    decodeWord (encode i) = some i ∧ decodeBytes (encodeBytes i ++ rest) = .ok (i, rest)

/-- R74: a word that decodes is the encoding of what it decodes to, so no two words share a meaning. Every
fixed nibble counts (5121 is not 5120): the spec's own decision D35, its conflict C4 (log 31). -/
def Obligations.DecodeThenEncodeGivesTheWord : Prop :=
  ∀ (w : Word) (i : Instr), decodeWord w = some i → encode i = w

/-- R74: a word is an instruction iff it meets exactly one row, no word meets two rows (the spec's own
inference), and the row it meets is its instruction's own. Every fixed nibble counts: the spec's own decision
D35 (log 31). -/
def Obligations.WordIsInstructionIffExactlyOneRowMatches : Prop :=
  ∀ w : Word,
    ((∃ i, decodeWord w = some i) ↔ ∃! row, row ∈ opcodeRows ∧ meetsRow w row = true) ∧
    (∀ row ∈ opcodeRows, ∀ row' ∈ opcodeRows,
      meetsRow w row = true → meetsRow w row' = true → row = row') ∧
    (∀ i, decodeWord w = some i →
      ∃ row, opcodeRows[rowIndex i]? = some row ∧ meetsRow w row = true)

/-! ### The cycle (40_engine_cycle.md, 60_exceptions.md) -/

/-- R100, R102, R103, R104: a step on a cycle of the agenda, or on an empty agenda, is the meaning of the
instruction whose bytes lie at PC, on the state with the cycle's random byte latched, and then the end of
the cycle where it completed. The agenda, and a cycle on an empty one, are the model's choice (log 6); so is
the free random byte of the latter (log 5). -/
def Obligations.StepRunsTheDecodedInstruction : Prop :=
  ∀ (s : State) (i : Instr), s.status = .running → FetchPasses s →
    decodeBytes [s.byteAt s.pc.toNat, s.byteAt (s.pc.toNat + 1)] = .ok (i, []) →
    (∀ rnd rest, s.agenda = .cycle rnd :: rest →
      ∃ t, exec i ((s.setAgenda rest).latchRnd rnd) = .next t ∧
        step s = .next (if t.status = .running then t.endOfCycle else t)) ∧
    (s.agenda = [] →
      ∃ t, exec i (s.countDraw.latchRnd (Config.randomByte s.draws)) = .next t ∧
        step s = .next (if t.status = .running then t.endOfCycle else t))

/-- R101: the alignment check comes first, then the two byte addresses, and the first invalid one is
reported; nothing but STATUS changes (R242). The spec's own decisions D3, D4, D14, D15 (log 13, 14, 23, 24). -/
def Obligations.FetchChecksFaultInOrder : Prop :=
  ∀ (rnd : Byte) (s : State), s.status = .running →
    (s.cfg.fetchAlignFault = true → s.pc.toNat % 2 = 1 →
      cycle rnd s = .next ((s.latchRnd rnd).faulted (.misalignedFetch s.pc))) ∧
    ((s.cfg.fetchAlignFault = true → s.pc.toNat % 2 = 0) → 4096 ≤ s.pc.toNat →
      cycle rnd s = .next ((s.latchRnd rnd).faulted (.addressOutOfRange s.pc.toNat s.pc))) ∧
    ((s.cfg.fetchAlignFault = true → s.pc.toNat % 2 = 0) → s.pc.toNat = 4095 →
      cycle rnd s = .next ((s.latchRnd rnd).faulted (.addressOutOfRange 4096 s.pc)))

/-- R75, R104: a fetched word that meets no row ends the run with the word and pc_f, and nothing but STATUS
changes. The spec's own decisions D14, D34, D35 (log 23, 31). -/
def Obligations.UnknownWordEndsTheRun : Prop :=
  ∀ (rnd : Byte) (s : State), s.status = .running → FetchPasses s →
    (∀ row ∈ opcodeRows,
      meetsRow (wordOfBytes (s.byteAt s.pc.toNat) (s.byteAt (s.pc.toNat + 1))) row = false) →
    cycle rnd s = .next ((s.latchRnd rnd).faulted
      (.unknownOpcode (wordOfBytes (s.byteAt s.pc.toNat) (s.byteAt (s.pc.toNat + 1))) s.pc))

/-- R105, R242: whichever instruction or fetch faults, the faulting cycle leaves every architectural element
at its value from the start of the cycle; only STATUS changes (the latched random byte is the cycle's input,
log 5). The spec's own decision D14 (log 23). -/
def Obligations.FaultingCycleChangesOnlyStatus : Prop :=
  ∀ (rnd : Byte) (s t : State) (f : FaultRecord),
    cycle rnd s = .next t → t.status = .faulted f → t = (s.latchRnd rnd).faulted f

/-- R107, R33: a cycle answers a next state in exactly the Running states, and no step leaves Faulted or Quit.
That every Running state has one is an inference from R100 and R241. A step of a run that has ended is an event of
the agenda, the model's choice (log 6, 29). -/
def Obligations.EndedRunHasNoCycle : Prop :=
  (∀ (rnd : Byte) (s : State), s.status = .running → ∃ t, cycle rnd s = .next t) ∧
  (∀ (rnd : Byte) (s t : State), cycle rnd s = .next t → s.status = .running) ∧
  (∀ s t : State, s.status ≠ .running → step s = .next t → t.status = s.status)

/-- R105, R241: a Running machine's cycle always answers a next state, with STATUS Running or Faulted; no
instruction is refused and none stops the machine without a fault record. -/
def Obligations.RunningMachineCycleAlwaysAnswers : Prop :=
  ∀ (rnd : Byte) (s : State), s.status = .running →
    ∃ t, cycle rnd s = .next t ∧ (t.status = .running ∨ ∃ f, t.status = .faulted f)

/-- R106, R251: after a cycle's instruction completes without a fault, the InstrCount tick runs if that is
the policy, and then KDE is cleared. The spec's own decisions D9, D16, D17 (log 18, 25). -/
def Obligations.CompletedCycleTicksThenClearsKeyCapture : Prop :=
  ∀ (rnd : Byte) (s t : State) (i : Instr), s.status = .running →
    (s.latchRnd rnd).fetchInstr = .ok i → exec i (s.latchRnd rnd) = .next t → t.status = .running →
    ∃ u, cycle rnd s = .next u ∧ u.kde = none ∧
      (t.cfg.timerPolicy = .wallClock → u = { t with kde := none }) ∧
      (t.cfg.timerPolicy = .instrCount → t.tdiv + 1 ≠ t.cfg.timerDiv →
        u = { t with tdiv := t.tdiv + 1, kde := none }) ∧
      (t.cfg.timerPolicy = .instrCount → t.tdiv + 1 = t.cfg.timerDiv →
        u.dt.toNat = t.dt.toNat - 1 ∧ u.st.toNat = t.st.toNat - 1 ∧
        u = { t with dt := u.dt, st := u.st, tdiv := 0, kde := none })

/-- R243: each instruction can raise at most one kind of fault, with its info of R240. The spec's own
decisions D12, D14, D15 (log 21, 23, 24). -/
def Obligations.InstructionRaisesOnlyItsOwnKind : Prop :=
  ∀ (i : Instr) (s t : State) (f : FaultRecord),
    s.status = .running → exec i s = .next t → t.status = .faulted f →
    t = s.faulted f ∧
    ((i = .ret ∧ f = .stackUnderflow s.pc) ∨
     ((∃ nnn, i = .call nnn) ∧ f = .stackOverflow s.pc) ∨
     ((∃ x, i = .addIndex x) ∧ f = .indexOverflow s.pc) ∨
     (((∃ x y n, i = .drw x y n) ∨ (∃ x, i = .storeBcd x) ∨ (∃ x, i = .storeRegs x) ∨
        (∃ x, i = .loadRegs x)) ∧
      f = .addressOutOfRange (max s.indexAddr 4096) s.pc))

/-! ### Invariants and whole-machine rules -/

/-- The invariant `State.Inv` (the limits of R5, R22, R24, R32, and memory's canonical form, the model's
choice of log 10) is kept by every step from every state that meets it. -/
def Obligations.StepKeepsInvariant : Prop :=
  ∀ s t : State, s.Inv → step s = .next t → t.Inv

/-- The machine meets the invariant after reset, under this hardware's configuration and under every
well-formed one (R5, R36). -/
def Obligations.ResetMeetsInvariant : Prop :=
  State.reset.Inv ∧ ∀ c : Config, c.WellFormed → (State.construct c).Inv

/-- R5, R34: the configuration stays fixed for the whole run. That it is held in State is the model's choice
(log 2). -/
def Obligations.ConfigurationNeverChanges : Prop :=
  ∀ s t : State, step s = .next t → t.cfg = s.cfg

/-- R37, R59, R154, R196, R243: which instructions write each element, over all 34 of them: FB, DIRTY, MEM, DT,
ST, STACK, SP, I, every general register, VF as a flag, PC other than by the advance, and STATUS; KEY, KDE, TDIV and
the configuration by none. R37 is the spec's own summary of its rules. That 8XY1..8XY3 keep VF and FX33 keeps I is
its decision D24, D25 (log 26), FX0A's hold its D9 (log 18), that a fault changes only STATUS its D14 (log 23). -/
def Obligations.OnlyNamedInstructionsWriteEachElement : Prop :=
  ∀ (i : Instr) (s t : State), exec i s = .next t →
    (t.fb ≠ s.fb ∨ t.dirty ≠ s.dirty → i = .cls ∨ ∃ x y n, i = .drw x y n) ∧
    (t.mem ≠ s.mem → (∃ x, i = .storeBcd x) ∨ ∃ x, i = .storeRegs x) ∧
    (t.dt ≠ s.dt → ∃ x, i = .ldDelay x) ∧
    (t.st ≠ s.st → ∃ x, i = .ldSound x) ∧
    (t.stack ≠ s.stack → ∃ nnn, i = .call nnn) ∧
    (t.sp ≠ s.sp → i = .ret ∨ ∃ nnn, i = .call nnn) ∧
    (t.i ≠ s.i → (∃ nnn, i = .ldIndex nnn) ∨ (∃ x, i = .addIndex x) ∨ (∃ x, i = .ldGlyph x) ∨
      (s.cfg.lsAdvanceI = true ∧ ((∃ x, i = .storeRegs x) ∨ ∃ x, i = .loadRegs x))) ∧
    (∀ r, t.reg r ≠ s.reg r → writesReg i r = true ∨ (r = flagReg ∧ writesFlag s.cfg i = true)) ∧
    (t.pc ≠ s.pc + 2 → setsPc i = true ∨ (isSkip i = true ∧ t.pc = s.pc + 4) ∨
      ((∃ x, i = .ldKey x) ∧ s.kde = none ∧ t = s) ∨ (canFault i = true ∧ ∃ f, t = s.faulted f)) ∧
    (t.status ≠ s.status → canFault i = true ∧ ∃ f, t = s.faulted f) ∧
    (t.key = s.key ∧ t.kde = s.kde ∧ t.tdiv = s.tdiv ∧ t.cfg = s.cfg)

/-- R245, R261: the host's events change only DT, ST, DIRTY, KEY, KDE and STATUS, never PC, registers or
memory. The spec's own decisions D27, D29 (log 6). -/
def Obligations.HostEventsNeverTouchTheProgram : Prop :=
  ∀ (a : HostAction) (s t : State), isCycle a = false → act a s = .next t →
    t = { s with dt := t.dt, st := t.st, dirty := t.dirty, key := t.key, kde := t.kde,
                 status := t.status } ∧ SameBytes s t

/-! ### Reset and load (70_reset_and_hazards.md) -/

/-- R36: every state element and its value after reset. PC, DIRTY, KEY, KDE, TDIV and STATUS rest on the
spec's own decisions D1, D36, D9, D30, D37 (log 7, 8), the font's bytes on D19 (log 10), and that STACK has 16
entries on R5's value of P_STACK_DEPTH, its decision D5 (log 15). -/
def Obligations.ResetLeavesEveryElementAtItsValue : Prop :=
  (∀ x, State.reset.reg x = 0x00) ∧ State.reset.pc = 0x200 ∧ State.reset.i = 0x0000 ∧
  State.reset.sp = 0 ∧ State.reset.stack.length = 16 ∧ (∀ r ∈ State.reset.stack, r = 0x0000) ∧
  State.reset.dt = 0x00 ∧ State.reset.st = 0x00 ∧
  (∀ a, a < 80 → some (State.reset.byteAt a) = Config.defaultFont[a]?) ∧
  (∀ a, 80 ≤ a → State.reset.byteAt a = 0x00) ∧
  (∀ x y, State.reset.fb.cell x y = false) ∧ State.reset.dirty = false ∧ State.reset.key = none ∧
  State.reset.kde = none ∧ State.reset.tdiv = 0 ∧
  (∀ bytes : List Byte, ImageWellFormed bytes →
    (State.reset.load (.image bytes)).status = .running)

/-- R282, R283: the image lies at 0x200 on, verbatim; every other byte and element is kept; an image over
3584 bytes writes nothing and is a ProgramLoadError with its length, and so is the host's read error. Any
length up to 3584, and the read error in the image's place, are the spec's own decision D33 (log 30). Memory's
canonical form, assumed and kept, is the model's choice (log 10). -/
def Obligations.LoadPlacesTheImageVerbatim : Prop :=
  ∀ (s : State) (bytes : List Byte), Memory.WellFormed s.cfg.font s.mem →
    (bytes.length ≤ 3584 →
      (∀ k (h : k < bytes.length), (s.load (.image bytes)).byteAt (0x200 + k) = bytes[k]) ∧
      SameBytesOutside s (s.load (.image bytes)) 0x200 bytes.length ∧
      s.load (.image bytes) = { s with mem := (s.load (.image bytes)).mem } ∧
      Memory.WellFormed s.cfg.font (s.load (.image bytes)).mem) ∧
    (3584 < bytes.length →
      s.load (.image bytes) = s.faulted (.programLoadError (.tooLong bytes.length))) ∧
    (∀ report, s.load (.unreadable report) = s.faulted (.programLoadError (.unreadable report)))

/-! ### Control flow (41_control_flow.md) -/

/-- R122, R128: 1NNN and BNNN set PC to the exact target and change nothing else. That BNNN's sum is not
reduced is the spec's own decision D2 (log 13). -/
def Obligations.JumpsSetPcToTheExactTarget : Prop :=
  ∀ (s : State) (nnn : Addr12),
    (∃ t, exec (.jp nnn) s = .next t ∧ t.pc.toNat = nnn.toNat ∧ OnlyPc s t) ∧
    (∃ t, exec (.jpOffset nnn) s = .next t ∧ OnlyPc s t ∧
      (s.cfg.jumpVx = false → t.pc.toNat = nnn.toNat + (s.reg 0x0).toNat) ∧
      (s.cfg.jumpVx = true →
        t.pc.toNat = nnn.toNat + (s.reg (BitVec.ofNat 4 (nnn.toNat / 256))).toNat))

/-- R122, R269: a self-jump, the conventional end of a program, goes on cycling for ever without a fault, for
any number of steps: the spec's own inference, on an empty agenda (log 6). -/
def Obligations.SelfJumpRunsForEver : Prop :=
  ∀ (s : State) (nnn : Addr12) (k : Nat), s.status = .running → s.agenda = [] →
    s.pc.toNat = nnn.toNat → s.fetchInstr = .ok (.jp nnn) → SafeFor k s

/-- R123: 2NNN pushes pc_f + 2 and jumps; at the bound it raises StackOverflow, the spec's own decision D5
(log 15), and changes only STATUS, its decision D14 (log 23). -/
def Obligations.CallPushesTheReturnAddress : Prop :=
  ∀ (s : State) (nnn : Addr12),
    (s.stack.length = s.cfg.stackDepth → s.sp < s.cfg.stackDepth →
      ∃ t, exec (.call nnn) s = .next t ∧ t.stack[s.sp]? = some (s.pc + 2) ∧
        (∀ k, k ≠ s.sp → t.stack[k]? = s.stack[k]?) ∧ t.sp = s.sp + 1 ∧
        t.pc.toNat = nnn.toNat ∧
        t = { s with stack := t.stack, sp := t.sp, pc := t.pc } ∧ SameBytes s t) ∧
    (s.sp = s.cfg.stackDepth → exec (.call nnn) s = .next (s.faulted (.stackOverflow s.pc)))

/-- R121: 00EE pops the top entry into PC, whatever it is, and leaves it in place; on an empty stack it raises
StackUnderflow. That the fault changes only STATUS is the spec's own decision D14 (log 23). -/
def Obligations.ReturnPopsTheTopEntry : Prop :=
  ∀ s : State,
    (∀ k ret, s.sp = k + 1 → s.stack[k]? = some ret →
      ∃ t, exec .ret s = .next t ∧ t.pc = ret ∧ t.sp = k ∧
        t = { s with sp := t.sp, pc := t.pc } ∧ SameBytes s t) ∧
    (s.sp = 0 → exec .ret s = .next (s.faulted (.stackUnderflow s.pc)))

/-- R121, R123: a return resumes exactly at the instruction after the call, whatever happened between them
that left the stack alone. -/
def Obligations.ReturnResumesAfterTheCall : Prop :=
  ∀ (s : State) (nnn : Addr12), s.stack.length = s.cfg.stackDepth → s.sp < s.cfg.stackDepth →
    ∃ t, exec (.call nnn) s = .next t ∧
      ∀ t' : State, t'.stack = t.stack → t'.sp = t.sp →
        ∃ u, exec .ret t' = .next u ∧ u.pc = s.pc + 2 ∧ u.sp = s.sp

/-- R124, R125, R126, R127: the register skips leave PC at pc_f + 4 exactly on their condition and else at
pc_f + 2 (R103). -/
def Obligations.RegisterSkipsPassOverOneWord : Prop :=
  ∀ (s : State) (x y : Nibble) (nn : Byte),
    (∃ t, exec (.seImm x nn) s = .next t ∧ OnlyPc s t ∧
      (s.reg x = nn → t.pc = s.pc + 4) ∧ (s.reg x ≠ nn → t.pc = s.pc + 2)) ∧
    (∃ t, exec (.sneImm x nn) s = .next t ∧ OnlyPc s t ∧
      (s.reg x ≠ nn → t.pc = s.pc + 4) ∧ (s.reg x = nn → t.pc = s.pc + 2)) ∧
    (∃ t, exec (.seReg x y) s = .next t ∧ OnlyPc s t ∧
      (s.reg x = s.reg y → t.pc = s.pc + 4) ∧ (s.reg x ≠ s.reg y → t.pc = s.pc + 2)) ∧
    (∃ t, exec (.sneReg x y) s = .next t ∧ OnlyPc s t ∧
      (s.reg x ≠ s.reg y → t.pc = s.pc + 4) ∧ (s.reg x = s.reg y → t.pc = s.pc + 2))

/-! ### ALU (42_alu.md) -/

/-- R141, R143: 6XNN and 8XY0 write V[X] and nothing else. -/
def Obligations.LoadAndCopyWriteOneRegister : Prop :=
  ∀ (s : State) (x y : Nibble) (nn : Byte),
    (∃ t, exec (.ldImm x nn) s = .next t ∧ t.reg x = nn ∧ RegsKeptBut s t x ∧
      t.pc = s.pc + 2 ∧ OnlyRegsPc s t) ∧
    (∃ t, exec (.ldReg x y) s = .next t ∧ t.reg x = s.reg y ∧ RegsKeptBut s t x ∧
      t.pc = s.pc + 2 ∧ OnlyRegsPc s t)

/-- R142: 7XNN wraps modulo 256 and writes no flag. -/
def Obligations.AddImmediateWrapsWithoutFlag : Prop :=
  ∀ (s : State) (x : Nibble) (nn : Byte),
    ∃ t, exec (.addImm x nn) s = .next t ∧
      (t.reg x).toNat = ((s.reg x).toNat + nn.toNat) % 256 ∧ RegsKeptBut s t x ∧
      t.pc = s.pc + 2 ∧ OnlyRegsPc s t

/-- R144, R145, R146: OR, AND and XOR bit by bit. That VF is not written unless it is V[X] is the spec's own
decision D24 (log 26). -/
def Obligations.LogicWritesItsResultAlone : Prop :=
  ∀ (s : State) (x y : Nibble),
    (∃ t, exec (.orReg x y) s = .next t ∧
      (∀ k, (t.reg x).getLsbD k = ((s.reg x).getLsbD k || (s.reg y).getLsbD k)) ∧
      RegsKeptBut s t x ∧ t.pc = s.pc + 2 ∧ OnlyRegsPc s t) ∧
    (∃ t, exec (.andReg x y) s = .next t ∧
      (∀ k, (t.reg x).getLsbD k = ((s.reg x).getLsbD k && (s.reg y).getLsbD k)) ∧
      RegsKeptBut s t x ∧ t.pc = s.pc + 2 ∧ OnlyRegsPc s t) ∧
    (∃ t, exec (.xorReg x y) s = .next t ∧
      (∀ k, (t.reg x).getLsbD k = ((s.reg x).getLsbD k ^^ (s.reg y).getLsbD k)) ∧
      RegsKeptBut s t x ∧ t.pc = s.pc + 2 ∧ OnlyRegsPc s t)

/-- R147: 8XY4 writes the low 8 bits of the sum to V[X] and then the carry to VF, from operands read
beforehand. That the carry survives X = F is the order of R140, the spec's own decision D7 (log 16). -/
def Obligations.AddWritesSumThenCarry : Prop :=
  ∀ (s : State) (x y : Nibble),
    ∃ t, exec (.addReg x y) s = .next t ∧
      (x ≠ flagReg → (t.reg x).toNat = ((s.reg x).toNat + (s.reg y).toNat) % 256) ∧
      (t.reg flagReg).toNat = (if 255 < (s.reg x).toNat + (s.reg y).toNat then 1 else 0) ∧
      RegsKeptButFlag s t x ∧ t.pc = s.pc + 2 ∧ OnlyRegsPc s t

/-- R148, R150: 8XY5 and 8XY7 write the difference modulo 256 and then NOT-borrow, which is 1 where the
operands are equal. The order with X = F is R140's, the spec's own decision D7 (log 16). -/
def Obligations.SubtractionsWriteDifferenceThenNotBorrow : Prop :=
  ∀ (s : State) (x y : Nibble),
    (∃ t, exec (.subReg x y) s = .next t ∧
      (x ≠ flagReg → (t.reg x).toNat = ((s.reg x).toNat + 256 - (s.reg y).toNat) % 256) ∧
      (t.reg flagReg).toNat = (if (s.reg x).toNat < (s.reg y).toNat then 0 else 1) ∧
      RegsKeptButFlag s t x ∧ t.pc = s.pc + 2 ∧ OnlyRegsPc s t) ∧
    (∃ t, exec (.subnReg x y) s = .next t ∧
      (x ≠ flagReg → (t.reg x).toNat = ((s.reg y).toNat + 256 - (s.reg x).toNat) % 256) ∧
      (t.reg flagReg).toNat = (if (s.reg y).toNat < (s.reg x).toNat then 0 else 1) ∧
      RegsKeptButFlag s t x ∧ t.pc = s.pc + 2 ∧ OnlyRegsPc s t)

/-- R149, R151: 8XY6 and 8XYE shift V[Y] when `P_SHIFT_USES_VY` and V[X] when not, by one, and VF is the bit
shifted out. One flag for both is the spec's own decision D18, the order with X = F its D7 (log 3, 16). -/
def Obligations.ShiftsMoveOneBitIntoTheFlag : Prop :=
  ∀ (s : State) (x y : Nibble) (src : Byte),
    (s.cfg.shiftUsesVy = true → src = s.reg y) → (s.cfg.shiftUsesVy = false → src = s.reg x) →
    (∃ t, exec (.shr x y) s = .next t ∧
      (x ≠ flagReg → (t.reg x).toNat = src.toNat / 2) ∧
      (t.reg flagReg).toNat = src.toNat % 2 ∧
      RegsKeptButFlag s t x ∧ t.pc = s.pc + 2 ∧ OnlyRegsPc s t) ∧
    (∃ t, exec (.shl x y) s = .next t ∧
      (x ≠ flagReg → (t.reg x).toNat = src.toNat * 2 % 256) ∧
      (t.reg flagReg).toNat = src.toNat / 128 ∧
      RegsKeptButFlag s t x ∧ t.pc = s.pc + 2 ∧ OnlyRegsPc s t)

/-- R152, R264: CXNN writes the cycle's random byte under the mask, for every random byte: the input is free,
the spec's own decision D22 (log 5). -/
def Obligations.RandomByteIsMasked : Prop :=
  ∀ (s : State) (x : Nibble) (nn rnd : Byte),
    ∃ t, exec (.rnd x nn) (s.latchRnd rnd) = .next t ∧
      (∀ k, (t.reg x).getLsbD k = (rnd.getLsbD k && nn.getLsbD k)) ∧
      RegsKeptBut s t x ∧ t.pc = s.pc + 2 ∧ OnlyRegsPc (s.latchRnd rnd) t

/-! ### Index register and memory (43_index_memory.md) -/

/-- R170, R174: ANNN and FX29 write I and nothing else; FX29 ignores V[X]'s high nibble. -/
def Obligations.IndexLoadsWriteIndexAlone : Prop :=
  ∀ (s : State) (x : Nibble) (nnn : Addr12),
    (∃ t, exec (.ldIndex nnn) s = .next t ∧ t.i.toNat = nnn.toNat ∧ t.pc = s.pc + 2 ∧
      t = { s with i := t.i, pc := t.pc } ∧ SameBytes s t) ∧
    (∃ t, exec (.ldGlyph x) s = .next t ∧ t.i.toNat = 5 * ((s.reg x).toNat % 16) ∧
      t.pc = s.pc + 2 ∧ t = { s with i := t.i, pc := t.pc } ∧ SameBytes s t)

/-- R173, R171: FX1E writes the exact sum to I, and VF only when `P_FX1E_VF`; a sum above 0xFFFF raises
IndexOverflow and writes nothing. The spec's own decisions D12, D13, D14 (log 21, 22, 23). -/
def Obligations.AddIndexIsExactOrFaults : Prop :=
  ∀ (s : State) (x : Nibble),
    (s.i.toNat + (s.reg x).toNat ≤ 0xFFFF →
      ∃ t, exec (.addIndex x) s = .next t ∧ t.i.toNat = s.i.toNat + (s.reg x).toNat ∧
        (s.cfg.fx1eVf = true → (t.reg flagReg).toNat =
          (if 0xFFF < s.i.toNat + (s.reg x).toNat then 1 else 0)) ∧
        (s.cfg.fx1eVf = false → t.reg flagReg = s.reg flagReg) ∧
        RegsKeptBut s t flagReg ∧ t.pc = s.pc + 2 ∧
        t = { s with v := t.v, i := t.i, pc := t.pc } ∧ SameBytes s t) ∧
    (0xFFFF < s.i.toNat + (s.reg x).toNat →
      exec (.addIndex x) s = .next (s.faulted (.indexOverflow s.pc)))

/-- R175: FX33 stores hundreds, tens and units at I, I+1, I+2, and changes no other byte. That I is kept is
the spec's own decision D25 (log 26); memory's canonical form is the model's choice (log 10). -/
def Obligations.StoreBcdWritesThreeDigits : Prop :=
  ∀ (s : State) (x : Nibble), Memory.WellFormed s.cfg.font s.mem →
    s.indexAddr + 3 ≤ Config.memorySize →
    ∃ t, exec (.storeBcd x) s = .next t ∧
      (t.byteAt s.indexAddr).toNat = (s.reg x).toNat / 100 ∧
      (t.byteAt (s.indexAddr + 1)).toNat = (s.reg x).toNat / 10 % 10 ∧
      (t.byteAt (s.indexAddr + 2)).toNat = (s.reg x).toNat % 10 ∧
      SameBytesOutside s t s.indexAddr 3 ∧ t.pc = s.pc + 2 ∧
      t = { s with mem := t.mem, pc := t.pc }

/-- R176: FX55 stores V[0]..V[X] from I on, changes no other byte, and advances I by X+1 exactly when
`P_LS_ADVANCE_I`; that the advance cannot overflow is the spec's own inference (log 32). Memory's
canonical form is the model's choice (log 10). -/
def Obligations.StoreRegsCopiesRegistersToMemory : Prop :=
  ∀ (s : State) (x : Nibble), Memory.WellFormed s.cfg.font s.mem →
    s.indexAddr + (x.toNat + 1) ≤ Config.memorySize →
    ∃ t, exec (.storeRegs x) s = .next t ∧
      (∀ r : Nibble, r.toNat ≤ x.toNat → t.byteAt (s.indexAddr + r.toNat) = s.reg r) ∧
      SameBytesOutside s t s.indexAddr (x.toNat + 1) ∧ t.pc = s.pc + 2 ∧
      (s.cfg.lsAdvanceI = true → t.i.toNat = s.i.toNat + x.toNat + 1) ∧
      (s.cfg.lsAdvanceI = false → t.i = s.i) ∧
      t = { s with mem := t.mem, i := t.i, pc := t.pc }

/-- R177: FX65 loads V[0]..V[X] from I on, keeps the other registers and all of memory, and advances I like
FX55 (log 32). -/
def Obligations.LoadRegsCopiesMemoryToRegisters : Prop :=
  ∀ (s : State) (x : Nibble), s.indexAddr + (x.toNat + 1) ≤ Config.memorySize →
    ∃ t, exec (.loadRegs x) s = .next t ∧
      (∀ r : Nibble, r.toNat ≤ x.toNat → t.reg r = s.byteAt (s.indexAddr + r.toNat)) ∧
      (∀ r : Nibble, x.toNat < r.toNat → t.reg r = s.reg r) ∧ t.pc = s.pc + 2 ∧
      (s.cfg.lsAdvanceI = true → t.i.toNat = s.i.toNat + x.toNat + 1) ∧
      (s.cfg.lsAdvanceI = false → t.i = s.i) ∧
      t = { s with v := t.v, i := t.i, pc := t.pc } ∧ SameBytes s t

/-- R51, R175, R176, R177, R193: an access that reaches 4096 or above faults at its lowest invalid address,
and nothing is written. The spec's own decisions D2, D14, D15, D32 (log 13, 23, 24, 33). -/
def Obligations.OutOfRangeAccessFaultsBeforeAnyWrite : Prop :=
  ∀ (s : State) (x y n : Nibble),
    (4096 < s.indexAddr + 3 → exec (.storeBcd x) s =
      .next (s.faulted (.addressOutOfRange (max s.indexAddr 4096) s.pc))) ∧
    (4096 < s.indexAddr + (x.toNat + 1) → exec (.storeRegs x) s =
      .next (s.faulted (.addressOutOfRange (max s.indexAddr 4096) s.pc))) ∧
    (4096 < s.indexAddr + (x.toNat + 1) → exec (.loadRegs x) s =
      .next (s.faulted (.addressOutOfRange (max s.indexAddr 4096) s.pc))) ∧
    (n ≠ 0 → 4096 < s.indexAddr + n.toNat → exec (.drw x y n) s =
      .next (s.faulted (.addressOutOfRange (max s.indexAddr 4096) s.pc)))

/-- R176, R177: what FX55 stored, FX65 at the same I loads back, whatever the registers held meanwhile.
Memory's canonical form is the model's choice (log 10). -/
def Obligations.StoreThenLoadRestoresRegisters : Prop :=
  ∀ (s : State) (x : Nibble), Memory.WellFormed s.cfg.font s.mem →
    s.indexAddr + (x.toNat + 1) ≤ Config.memorySize →
    ∃ t, exec (.storeRegs x) s = .next t ∧
      ∀ t' : State, SameBytes t t' → t'.i = s.i →
        ∃ u, exec (.loadRegs x) t' = .next u ∧
          ∀ r : Nibble, r.toNat ≤ x.toNat → u.reg r = s.reg r

/-- R65, the spec's own inference, with R56 and R102: a word stored into the instruction stream is what the
next fetch at its address reads, the byte at the lower address most significant, as a number. Memory's canonical
form is the model's choice (log 10). -/
def Obligations.StoredWordIsFetchedNext : Prop :=
  ∀ (s : State) (x : Nibble), Memory.WellFormed s.cfg.font s.mem → 1 ≤ x.toNat →
    s.indexAddr + (x.toNat + 1) ≤ Config.memorySize →
    ∃ t, exec (.storeRegs x) s = .next t ∧
      ∀ t' : State, SameBytes t t' → t'.pc = s.i →
        t'.fetchWord.toNat = (s.reg 0x0).toNat * 256 + (s.reg 0x1).toNat

/-- R50, R57, R58, R61: a byte written is the byte read at its address, every other address reads as before,
and memory stays in canonical form (log 10). -/
def Obligations.ByteWrittenIsTheByteRead : Prop :=
  ∀ (s : State) (a : Nat) (b : Byte), Memory.WellFormed s.cfg.font s.mem → a < Config.memorySize →
    (s.setByte a b).byteAt a = b ∧ (∀ a', a' ≠ a → (s.setByte a b).byteAt a' = s.byteAt a') ∧
    Memory.WellFormed s.cfg.font (s.setByte a b).mem

/-- Memories in canonical form, the model's choice of log 10, that read alike at every address are the same
data (R50). -/
def Obligations.MemoriesThatReadAlikeAreEqual : Prop :=
  ∀ (font : List Byte) (m m' : Memory), Memory.WellFormed font m → Memory.WellFormed font m' →
    (∀ a, Memory.read font m a = Memory.read font m' a) → m = m'

/-! ### Display (44_display.md) -/

/-- R192: 00E0 clears every cell and sets DIRTY, whatever FB held, and writes no register. -/
def Obligations.ClearScreenClearsEveryCell : Prop :=
  ∀ s : State, ∃ t, exec .cls s = .next t ∧ (∀ x y, t.fb.cell x y = false) ∧ t.dirty = true ∧
    t.pc = s.pc + 2 ∧ t = { s with fb := t.fb, dirty := t.dirty, pc := t.pc } ∧ SameBytes s t

/-- R193, R194, R195, R196: DXYN toggles exactly the cells under the sprite's 1 bits, wrapped around both
edges; VF is 1 exactly where one of them was set; DIRTY is set; nothing else changes. The bit order, VF last
and DIRTY always are the spec's own decisions D8, D7, D32 (log 17, 16, 33). -/
def Obligations.DrawTogglesTouchedCellsAndReportsCollision : Prop :=
  ∀ (s : State) (x y n : Nibble), SpriteInRange s n →
    ∃ t, exec (.drw x y n) s = .next t ∧
      (∀ cx cy, cx < 64 → cy < 32 →
        (SpriteTouches s x y n cx cy → t.fb.cell cx cy = !s.fb.cell cx cy) ∧
        (¬SpriteTouches s x y n cx cy → t.fb.cell cx cy = s.fb.cell cx cy)) ∧
      ((∃ cx cy, SpriteTouches s x y n cx cy ∧ s.fb.cell cx cy = true) → t.reg flagReg = 1) ∧
      ((¬∃ cx cy, SpriteTouches s x y n cx cy ∧ s.fb.cell cx cy = true) → t.reg flagReg = 0) ∧
      RegsKeptBut s t flagReg ∧ t.dirty = true ∧ t.pc = s.pc + 2 ∧
      t = { s with v := t.v, fb := t.fb, dirty := t.dirty, pc := t.pc } ∧ SameBytes s t

/-- R193: a sprite drawn a second time at the same place restores the framebuffer, whatever the bit order. -/
def Obligations.DrawingTwiceRestoresTheFramebuffer : Prop :=
  ∀ (s : State) (x y n : Nibble), SpriteInRange s n →
    ∃ t, exec (.drw x y n) s = .next t ∧
      ∀ t' : State, t'.fb = t.fb → t'.reg x = s.reg x → t'.reg y = s.reg y → t'.i = s.i →
        SameBytes s t' → ∃ u, exec (.drw x y n) t' = .next u ∧ u.fb = s.fb

/-! ### Timers and keys (45_timers_keys.md, 60_exceptions.md) -/

/-- R212, R214, R215, R263: FX07 reads DT, FX15 writes DT, FX18 writes ST, which `sound_on` follows: the
spec's own decision D21 (log 34). -/
def Obligations.TimerInstructionsMoveOneByte : Prop :=
  ∀ (s : State) (x : Nibble),
    (∃ t, exec (.ldFromDelay x) s = .next t ∧ t.reg x = s.dt ∧ RegsKeptBut s t x ∧
      t.pc = s.pc + 2 ∧ OnlyRegsPc s t) ∧
    (∃ t, exec (.ldDelay x) s = .next t ∧ t.dt = s.reg x ∧ t.pc = s.pc + 2 ∧
      t = { s with dt := t.dt, pc := t.pc } ∧ SameBytes s t) ∧
    (∃ t, exec (.ldSound x) s = .next t ∧ t.st = s.reg x ∧ t.pc = s.pc + 2 ∧
      (t.soundOn = true ↔ s.reg x ≠ 0) ∧ t = { s with st := t.st, pc := t.pc } ∧ SameBytes s t)

/-- R210, R211: EX9E and EXA1 compare the latched key with V[X], and are exact complements; no key never
equals V[X]. That all 8 bits count is the spec's own decision D11 (log 20). -/
def Obligations.KeySkipsCompareTheLatchedKey : Prop :=
  ∀ (s : State) (x : Nibble),
    (∃ t, exec (.skp x) s = .next t ∧ OnlyPc s t ∧
      ((∃ k, s.key = some k ∧ k.toNat = (s.reg x).toNat) → t.pc = s.pc + 4) ∧
      ((¬∃ k, s.key = some k ∧ k.toNat = (s.reg x).toNat) → t.pc = s.pc + 2)) ∧
    (∃ t, exec (.sknp x) s = .next t ∧ OnlyPc s t ∧
      ((¬∃ k, s.key = some k ∧ k.toNat = (s.reg x).toNat) → t.pc = s.pc + 4) ∧
      ((∃ k, s.key = some k ∧ k.toNat = (s.reg x).toNat) → t.pc = s.pc + 2))

/-- R213: FX0A with a captured key-down stores its code; without one it holds PC at pc_f and changes nothing.
The capture is the spec's own decision D9 (log 18). -/
def Obligations.KeyWaitStoresTheCapturedKeyOrHolds : Prop :=
  ∀ (s : State) (x : Nibble),
    (∀ k, s.kde = some k → ∃ t, exec (.ldKey x) s = .next t ∧ (t.reg x).toNat = k.toNat ∧
      RegsKeptBut s t x ∧ t.pc = s.pc + 2 ∧ OnlyRegsPc s t) ∧
    (s.kde = none → exec (.ldKey x) s = .next s)

/-- R213, R260, R106: a waiting FX0A goes on waiting through a cycle without a key-down, and a key-down
before the next cycle ends the wait, even after the key is released. The spec's own decisions D9, D10 (log 18,
19), on the agenda of log 6. -/
def Obligations.KeyDownEndsTheWait : Prop :=
  ∀ (s : State) (x k : Nibble) (r : Byte) (rest : List HostAction), s.status = .running →
    s.fetchInstr = .ok (.ldKey x) →
    (s.kde = none → s.agenda = .cycle r :: rest →
      ∃ t, step s = .next t ∧ t.pc = s.pc ∧ t.v = s.v ∧ t.status = .running ∧ t.kde = none) ∧
    (s.agenda = .keyDown k :: .keyUp k :: .cycle r :: rest →
      ∃ t u w, step s = .next t ∧ step t = .next u ∧ step u = .next w ∧
        (w.reg x).toNat = k.toNat ∧ w.pc = s.pc + 2 ∧ w.key = none ∧ w.kde = none ∧
        w.agenda = rest)

/-- R250, R252: under WallClock each tick event counts both timers down, saturating at 0, and changes nothing
else. That one tick takes both is the spec's own decision D16 (log 25). The tick as a step is on the agenda, the
model's choice (log 6). -/
def Obligations.TimerTicksSaturateAtZero : Prop :=
  (∀ (n : Nat) (s : State),
    ((State.timerTick^[n]) s).dt.toNat = s.dt.toNat - n ∧
    ((State.timerTick^[n]) s).st.toNat = s.st.toNat - n ∧
    (State.timerTick^[n]) s =
      { s with dt := ((State.timerTick^[n]) s).dt, st := ((State.timerTick^[n]) s).st }) ∧
  (∀ (s : State) (rest : List HostAction), s.agenda = .tick :: rest →
    s.cfg.timerPolicy = .wallClock → step s = .next (s.setAgenda rest).timerTick)

/-- R251, R288: under InstrCount, DT falls by exactly 1 in `P_TIMER_DIV` non-faulting cycles that hold no
FX15, whatever else they run, whatever the divider holds at the start, and whatever happens between two of them that
leaves the configuration, DT and TDIV alone, as every event of the host but a WallClock tick does (R109). A waiting
FX0A counts, the spec's own decision D17 (log 25). -/
def Obligations.DelayFallsOncePerDivider : Prop :=
  ∀ (σ τ : Nat → State) (r : Nat → Byte), (σ 0).cfg.timerPolicy = .instrCount →
    (σ 0).tdiv < (σ 0).cfg.timerDiv →
    (∀ k, k < (σ 0).cfg.timerDiv →
      cycle (r k) (σ k) = .next (τ k) ∧ (τ k).status = .running ∧ SameTimer (τ k) (σ (k + 1)) ∧
      ∀ x, ((σ k).latchRnd (r k)).fetchInstr ≠ .ok (.ldDelay x)) →
    (σ (σ 0).cfg.timerDiv).dt.toNat = (σ 0).dt.toNat - 1 ∧
      (σ (σ 0).cfg.timerDiv).tdiv = (σ 0).tdiv

/-- R260, R262, R265: the host's key, acknowledge, snapshot and quit events, as steps of the agenda. The
spec's own decisions D9, D10, D31 (log 18, 19, 29), on the agenda of log 6. -/
def Obligations.HostEventsDoWhatTheyName : Prop :=
  ∀ (s : State) (k : Nibble) (rest : List HostAction),
    (s.agenda = .keyDown k :: rest →
      step s = .next { s with key := some k, kde := some k, agenda := rest }) ∧
    (s.agenda = .keyUp k :: rest → step s = .next { s with key := none, agenda := rest }) ∧
    (s.agenda = .ackDirty :: rest → step s = .next { s with dirty := false, agenda := rest }) ∧
    (s.agenda = .snapshot :: rest → step s = .next { s with agenda := rest }) ∧
    (s.agenda = .quit :: rest → s.status = .running →
      step s = .next { s with status := .quit, agenda := rest }) ∧
    (s.agenda = .quit :: rest → s.status ≠ .running → step s = .next { s with agenda := rest })
end

