-- ==== Sys2Proof/Laws/Decode.lean ====
section
/-! SUPPORT. The fields of a packed word, and a word rebuilt from its fields. -/

namespace Sys2Proof

/-- What each packing is as a number. -/
theorem packNNN_toNat (c : Nibble) (nnn : Addr12) :
    (packNNN c nnn).toNat = c.toNat * 4096 + nnn.toNat := by
  have := c.isLt; have := nnn.isLt
  simp [packNNN]; omega

theorem packXNN_toNat (c x : Nibble) (nn : Byte) :
    (packXNN c x nn).toNat = c.toNat * 4096 + x.toNat * 256 + nn.toNat := by
  have := c.isLt; have := x.isLt; have := nn.isLt
  simp [packXNN]; omega

theorem packXYN_toNat (c x y n : Nibble) :
    (packXYN c x y n).toNat = c.toNat * 4096 + x.toNat * 256 + y.toNat * 16 + n.toNat := by
  have := c.isLt; have := x.isLt; have := y.isLt; have := n.isLt
  simp [packXYN]; omega

/-! What each field is as a number. -/

theorem fieldN1_toNat (w : Word) : (fieldN1 w).toNat = w.toNat / 4096 := by
  have := w.isLt
  simp [fieldN1, Nat.shiftRight_eq_div_pow]; omega

theorem fieldX_toNat (w : Word) : (fieldX w).toNat = w.toNat / 256 % 16 := by
  simp [fieldX, Nat.shiftRight_eq_div_pow]

theorem fieldY_toNat (w : Word) : (fieldY w).toNat = w.toNat / 16 % 16 := by
  simp [fieldY, Nat.shiftRight_eq_div_pow]

theorem fieldN_toNat (w : Word) : (fieldN w).toNat = w.toNat % 16 := by
  simp [fieldN]

theorem fieldNN_toNat (w : Word) : (fieldNN w).toNat = w.toNat % 256 := by
  simp [fieldNN]

theorem fieldNNN_toNat (w : Word) : (fieldNNN w).toNat = w.toNat % 4096 := by
  simp [fieldNNN]

/-! The fields of a packed word. -/

@[simp] theorem fieldN1_packNNN (c : Nibble) (nnn : Addr12) : fieldN1 (packNNN c nnn) = c := by
  have := nnn.isLt
  apply BitVec.eq_of_toNat_eq; rw [fieldN1_toNat, packNNN_toNat]; omega

@[simp] theorem fieldNNN_packNNN (c : Nibble) (nnn : Addr12) : fieldNNN (packNNN c nnn) = nnn := by
  have := nnn.isLt
  apply BitVec.eq_of_toNat_eq; rw [fieldNNN_toNat, packNNN_toNat]; omega

@[simp] theorem fieldN1_packXNN (c x : Nibble) (nn : Byte) : fieldN1 (packXNN c x nn) = c := by
  have := x.isLt; have := nn.isLt
  apply BitVec.eq_of_toNat_eq; rw [fieldN1_toNat, packXNN_toNat]; omega

@[simp] theorem fieldX_packXNN (c x : Nibble) (nn : Byte) : fieldX (packXNN c x nn) = x := by
  have := x.isLt; have := nn.isLt
  apply BitVec.eq_of_toNat_eq; rw [fieldX_toNat, packXNN_toNat]; omega

@[simp] theorem fieldNN_packXNN (c x : Nibble) (nn : Byte) : fieldNN (packXNN c x nn) = nn := by
  have := nn.isLt
  apply BitVec.eq_of_toNat_eq; rw [fieldNN_toNat, packXNN_toNat]; omega

@[simp] theorem fieldN1_packXYN (c x y n : Nibble) : fieldN1 (packXYN c x y n) = c := by
  have := x.isLt; have := y.isLt; have := n.isLt
  apply BitVec.eq_of_toNat_eq; rw [fieldN1_toNat, packXYN_toNat]; omega

@[simp] theorem fieldX_packXYN (c x y n : Nibble) : fieldX (packXYN c x y n) = x := by
  have := x.isLt; have := y.isLt; have := n.isLt
  apply BitVec.eq_of_toNat_eq; rw [fieldX_toNat, packXYN_toNat]; omega

@[simp] theorem fieldY_packXYN (c x y n : Nibble) : fieldY (packXYN c x y n) = y := by
  have := y.isLt; have := n.isLt
  apply BitVec.eq_of_toNat_eq; rw [fieldY_toNat, packXYN_toNat]; omega

@[simp] theorem fieldN_packXYN (c x y n : Nibble) : fieldN (packXYN c x y n) = n := by
  have := n.isLt
  apply BitVec.eq_of_toNat_eq; rw [fieldN_toNat, packXYN_toNat]; omega

/-! A word is the packing of its own fields. -/

theorem packNNN_fields (w : Word) : packNNN (fieldN1 w) (fieldNNN w) = w := by
  apply BitVec.eq_of_toNat_eq
  rw [packNNN_toNat, fieldN1_toNat, fieldNNN_toNat]; omega

theorem packXNN_fields (w : Word) : packXNN (fieldN1 w) (fieldX w) (fieldNN w) = w := by
  apply BitVec.eq_of_toNat_eq
  rw [packXNN_toNat, fieldN1_toNat, fieldX_toNat, fieldNN_toNat]; omega

theorem packXYN_fields (w : Word) : packXYN (fieldN1 w) (fieldX w) (fieldY w) (fieldN w) = w := by
  apply BitVec.eq_of_toNat_eq
  rw [packXYN_toNat, fieldN1_toNat, fieldX_toNat, fieldY_toNat, fieldN_toNat]; omega

/-! Byte order. -/

theorem wordOfBytes_toNat (hi lo : Byte) : (wordOfBytes hi lo).toNat = hi.toNat * 256 + lo.toNat := by
  have := hi.isLt; have := lo.isLt
  simp [wordOfBytes]; omega

/-- A word is its two bytes, most significant first. -/
@[simp] theorem wordOfBytes_highByte_lowByte (w : Word) : wordOfBytes (highByte w) (lowByte w) = w := by
  have := w.isLt
  apply BitVec.eq_of_toNat_eq
  rw [wordOfBytes_toNat]
  simp [highByte, lowByte, Nat.shiftRight_eq_div_pow]; omega

/-- Decoding the bytes of a word is decoding the word. -/
theorem decodeBytes_word (w : Word) (rest : List Byte) :
    decodeBytes (highByte w :: lowByte w :: rest) =
      match decodeWord w with
      | some i => .ok (i, rest)
      | none => .error (.unknownOpcode w) := by
  cases h : decodeWord w <;> simp [decodeBytes, h]

/-! What each family's dispatch answers, said once. -/

/-- Which branch an answer came from. -/
theorem some_of_ite {P : Prop} [Decidable P] {a b : Option Instr} {i : Instr}
    (h : (if P then a else b) = some i) : (P ∧ a = some i) ∨ (¬P ∧ b = some i) := by
  by_cases hp : P
  · exact .inl ⟨hp, by rwa [if_pos hp] at h⟩
  · exact .inr ⟨hp, by rwa [if_neg hp] at h⟩

theorem encode_of_decodeArith {x y n : Nibble} {i : Instr} (h : decodeArith x y n = some i) :
    encode i = packXYN 0x8 x y n := by
  unfold decodeArith at h
  iterate 9
    rcases some_of_ite h with ⟨rfl, h⟩ | ⟨_, h⟩
    · cases h; rfl
  cases h

theorem encode_of_decodeKeys {x : Nibble} {nn : Byte} {i : Instr} (h : decodeKeys x nn = some i) :
    encode i = packXNN 0xE x nn := by
  unfold decodeKeys at h
  iterate 2
    rcases some_of_ite h with ⟨rfl, h⟩ | ⟨_, h⟩
    · cases h; rfl
  cases h

theorem encode_of_decodeMisc {x : Nibble} {nn : Byte} {i : Instr} (h : decodeMisc x nn = some i) :
    encode i = packXNN 0xF x nn := by
  unfold decodeMisc at h
  iterate 9
    rcases some_of_ite h with ⟨rfl, h⟩ | ⟨_, h⟩
    · cases h; rfl
  cases h

/-- No two rows of R74 can be met by one word: they differ on a bit both fix. -/
theorem opcodeRows_apart :
    opcodeRows.Pairwise fun r r' => r.2 &&& (r.1 &&& r'.1) ≠ r'.2 &&& (r.1 &&& r'.1) := by decide

/-! Masks of R74, nibble by nibble. -/

@[simp] theorem nibble_and_ones (a : Nibble) : a &&& 0xF#4 = a := by
  show a &&& BitVec.allOnes 4 = a
  exact BitVec.and_allOnes

theorem packXYN_eq_append (a b c d : Nibble) : packXYN a b c d = (a ++ b ++ c ++ d : BitVec (4 + 4 + 4 + 4)) := by
  apply BitVec.eq_of_toNat_eq
  have := a.isLt; have := b.isLt; have := c.isLt; have := d.isLt
  rw [packXYN_toNat]
  simp only [BitVec.toNat_append]
  rw [← Nat.shiftLeft_add_eq_or_of_lt b.isLt, ← Nat.shiftLeft_add_eq_or_of_lt c.isLt,
    ← Nat.shiftLeft_add_eq_or_of_lt d.isLt]
  simp only [Nat.shiftLeft_eq]
  omega

/-- Masking a word is masking its nibbles. -/
theorem packXYN_and (a b c d a' b' c' d' : Nibble) :
    packXYN a b c d &&& packXYN a' b' c' d' = packXYN (a &&& a') (b &&& b') (c &&& c') (d &&& d') := by
  simp only [packXYN_eq_append]
  rw [BitVec.and_append, BitVec.and_append, BitVec.and_append]

/-- Two words are equal exactly when their nibbles are. -/
theorem packXYN_inj (a b c d a' b' c' d' : Nibble) :
    packXYN a b c d = packXYN a' b' c' d' ↔ a = a' ∧ b = b' ∧ c = c' ∧ d = d' := by
  constructor
  · intro h
    exact ⟨by simpa using congrArg fieldN1 h, by simpa using congrArg fieldX h,
      by simpa using congrArg fieldY h, by simpa using congrArg fieldN h⟩
  · rintro ⟨rfl, rfl, rfl, rfl⟩
    rfl

/-- A word meets a row when each of its nibbles meets the row's. -/
theorem meetsRow_iff (w : Word) (m1 m2 m3 m4 r1 r2 r3 r4 : Nibble) :
    meetsRow w (packXYN m1 m2 m3 m4, packXYN r1 r2 r3 r4) = true ↔
      fieldN1 w &&& m1 = r1 ∧ fieldX w &&& m2 = r2 ∧ fieldY w &&& m3 = r3 ∧ fieldN w &&& m4 = r4 := by
  have e : w &&& packXYN m1 m2 m3 m4 =
      packXYN (fieldN1 w &&& m1) (fieldX w &&& m2) (fieldY w &&& m3) (fieldN w &&& m4) := by
    rw [← packXYN_and, packXYN_fields]
  simp only [meetsRow, e, beq_iff_eq, packXYN_inj]

/-- The low byte is the two low nibbles. -/
theorem fieldNN_eq_iff (w : Word) (a b : Nibble) :
    fieldNN w = BitVec.ofNat 8 (a.toNat * 16 + b.toNat) ↔ fieldY w = a ∧ fieldN w = b := by
  have := a.isLt; have := b.isLt
  simp only [← BitVec.toNat_inj, fieldNN_toNat, fieldY_toNat, fieldN_toNat, BitVec.toNat_ofNat]
  omega

end Sys2Proof
end

