-- ==== Sys2Proof/Laws/Memory.lean ====
section
/-! SUPPORT. The laws of memory: read after write, and the canonical form every operation keeps. -/

namespace Sys2Proof.Machine

variable {font : List Byte}

/-- A write leaves every other address alone. -/
theorem Memory.read_write_ne (m : Memory) {a a' : Nat} (b : Byte) (h : a' ≠ a) :
    Memory.read font (Memory.write font m a b) a' = Memory.read font m a' := by
  induction m with
  | nil =>
    unfold Memory.write
    split <;> simp [Memory.read, Ne.symm h]
  | cons c rest ih =>
    obtain ⟨k, c⟩ := c
    unfold Memory.write
    split_ifs with h1 h2 h3 h4
    · simp [Memory.read, ih]
    · subst h2
      simp [Memory.read, Ne.symm h]
    · subst h2
      simp [Memory.read, Ne.symm h]
    · rfl
    · simp [Memory.read, Ne.symm h]

/-- An address below every listed one reads as the reset contents. -/
theorem Memory.read_of_lt (m : Memory) {a : Nat} (h : ∀ c ∈ m, a < c.1) :
    Memory.read font m a = Memory.unlisted font a := by
  induction m with
  | nil => rfl
  | cons c rest ih =>
    have hc := h c (by simp)
    have hne : ¬ c.1 = a := by omega
    simp only [Memory.read, hne, if_false]
    exact ih fun d hd => h d (by simp [hd])

/-- In rising memory, the byte written is the byte read. -/
theorem Memory.read_write_same (m : Memory) (a : Nat) (b : Byte)
    (hm : m.Pairwise (fun c d => c.1 < d.1)) :
    Memory.read font (Memory.write font m a b) a = b := by
  induction m with
  | nil =>
    unfold Memory.write
    split_ifs with h
    · simp [Memory.read, h]
    · simp [Memory.read]
  | cons c rest ih =>
    obtain ⟨k, c⟩ := c
    rw [List.pairwise_cons] at hm
    unfold Memory.write
    split_ifs with h1 h2 h3 h4
    · have hne : ¬ k = a := by omega
      simp [Memory.read, hne, ih hm.2]
    · subst h2
      rw [Memory.read_of_lt rest hm.1, h3]
    · simp [Memory.read]
    · rw [Memory.read_of_lt, h4]
      intro d hd
      rcases List.mem_cons.1 hd with rfl | hd
      · show a < k
        omega
      · have := hm.1 d hd
        simp at this
        omega
    · simp [Memory.read]

/-- What a write lists is what was listed, or the byte written where it differs from the reset contents. -/
theorem Memory.mem_write {m : Memory} {a : Nat} {b : Byte} {c : Host.Cell}
    (h : c ∈ Memory.write font m a b) : c ∈ m ∨ (c = (a, b) ∧ b ≠ Memory.unlisted font a) := by
  induction m with
  | nil =>
    unfold Memory.write at h
    split_ifs at h with hb
    · simp at h
    · simp at h
      exact .inr ⟨h, hb⟩
  | cons d rest ih =>
    obtain ⟨k, d⟩ := d
    unfold Memory.write at h
    split_ifs at h with h1 h2 h3 h4
    · rcases List.mem_cons.1 h with rfl | h
      · simp
      · rcases ih h with h | h
        · simp [h]
        · exact .inr h
    · simp [h]
    · rcases List.mem_cons.1 h with rfl | h
      · exact .inr ⟨rfl, h3⟩
      · simp [h]
    · exact .inl h
    · rcases List.mem_cons.1 h with rfl | h
      · exact .inr ⟨rfl, h4⟩
      · exact .inl h

theorem Memory.write_rising (m : Memory) (a : Nat) (b : Byte)
    (hm : m.Pairwise (fun c d => c.1 < d.1)) :
    (Memory.write font m a b).Pairwise (fun c d => c.1 < d.1) := by
  induction m with
  | nil =>
    unfold Memory.write
    split_ifs <;> simp
  | cons c rest ih =>
    obtain ⟨k, c⟩ := c
    have hm' := List.pairwise_cons.1 hm
    unfold Memory.write
    split_ifs with h1 h2 h3 h4
    · refine List.pairwise_cons.2 ⟨fun d hd => ?_, ih hm'.2⟩
      rcases Memory.mem_write hd with hd | ⟨rfl, _⟩
      · exact hm'.1 d hd
      · exact h1
    · exact hm'.2
    · subst h2
      exact List.pairwise_cons.2 ⟨hm'.1, hm'.2⟩
    · exact hm
    · refine List.pairwise_cons.2 ⟨fun d hd => ?_, hm⟩
      rcases List.mem_cons.1 hd with rfl | hd
      · show a < k
        omega
      · have := hm'.1 d hd
        simp at this
        show a < d.1
        omega

/-- A write at an address that exists keeps the canonical form. -/
theorem Memory.write_wellFormed {m : Memory} {a : Nat} (b : Byte)
    (hm : Memory.WellFormed font m) (ha : a < Config.memorySize) :
    Memory.WellFormed font (Memory.write font m a b) := by
  refine ⟨Memory.write_rising m a b hm.1, fun c hc => ?_⟩
  rcases Memory.mem_write hc with hc | ⟨rfl, hb⟩
  · exact hm.2 c hc
  · exact ⟨ha, hb⟩

/-- Reset memory, with nothing listed, is in canonical form. -/
theorem Memory.nil_wellFormed : Memory.WellFormed font [] := by simp [Memory.WellFormed]

/-- The first listed byte is what its address reads as. -/
theorem Memory.read_head (k : Nat) (b : Byte) (m : Memory) :
    Memory.read font ((k, b) :: m) k = b := by simp [Memory.read]

/-! ### The same laws over a state -/

theorem State.byteAt_setByte_ne (s : State) {a a' : Nat} (b : Byte) (h : a' ≠ a) :
    (s.setByte a b).byteAt a' = s.byteAt a' := Memory.read_write_ne s.mem b h

theorem State.byteAt_setByte_same (s : State) (a : Nat) (b : Byte)
    (h : Memory.WellFormed s.cfg.font s.mem) : (s.setByte a b).byteAt a = b :=
  Memory.read_write_same s.mem a b h.1

/-- Reading a byte looks at memory and the font only. -/
theorem State.byteAt_congr {s t : State} (hm : t.mem = s.mem) (hc : t.cfg = s.cfg) (a : Nat) :
    t.byteAt a = s.byteAt a := by simp [State.byteAt, hm, hc]

end Sys2Proof.Machine
end

