-- ==== Sys2Proof/Laws/State.lean ====
section
/-! SUPPORT. One lemma per field per update of the state, true by rfl, so that no proof unfolds a record
update. -/

namespace Sys2Proof.Machine

@[simp] theorem State.setReg_v (s : State) (x : Nibble) (b : Byte) : (s.setReg x b).v = s.v.set x.toNat b x.isLt := rfl
@[simp] theorem State.setReg_pc (s : State) (x : Nibble) (b : Byte) : (s.setReg x b).pc = s.pc := rfl
@[simp] theorem State.setReg_i (s : State) (x : Nibble) (b : Byte) : (s.setReg x b).i = s.i := rfl
@[simp] theorem State.setReg_sp (s : State) (x : Nibble) (b : Byte) : (s.setReg x b).sp = s.sp := rfl
@[simp] theorem State.setReg_stack (s : State) (x : Nibble) (b : Byte) : (s.setReg x b).stack = s.stack := rfl
@[simp] theorem State.setReg_dt (s : State) (x : Nibble) (b : Byte) : (s.setReg x b).dt = s.dt := rfl
@[simp] theorem State.setReg_st (s : State) (x : Nibble) (b : Byte) : (s.setReg x b).st = s.st := rfl
@[simp] theorem State.setReg_mem (s : State) (x : Nibble) (b : Byte) : (s.setReg x b).mem = s.mem := rfl
@[simp] theorem State.setReg_fb (s : State) (x : Nibble) (b : Byte) : (s.setReg x b).fb = s.fb := rfl
@[simp] theorem State.setReg_dirty (s : State) (x : Nibble) (b : Byte) : (s.setReg x b).dirty = s.dirty := rfl
@[simp] theorem State.setReg_key (s : State) (x : Nibble) (b : Byte) : (s.setReg x b).key = s.key := rfl
@[simp] theorem State.setReg_kde (s : State) (x : Nibble) (b : Byte) : (s.setReg x b).kde = s.kde := rfl
@[simp] theorem State.setReg_tdiv (s : State) (x : Nibble) (b : Byte) : (s.setReg x b).tdiv = s.tdiv := rfl
@[simp] theorem State.setReg_status (s : State) (x : Nibble) (b : Byte) : (s.setReg x b).status = s.status := rfl
@[simp] theorem State.setReg_cfg (s : State) (x : Nibble) (b : Byte) : (s.setReg x b).cfg = s.cfg := rfl
@[simp] theorem State.setReg_rnd (s : State) (x : Nibble) (b : Byte) : (s.setReg x b).rnd = s.rnd := rfl
@[simp] theorem State.setReg_draws (s : State) (x : Nibble) (b : Byte) : (s.setReg x b).draws = s.draws := rfl
@[simp] theorem State.setReg_agenda (s : State) (x : Nibble) (b : Byte) : (s.setReg x b).agenda = s.agenda := rfl

@[simp] theorem State.setByte_v (s : State) (a : Nat) (b : Byte) : (s.setByte a b).v = s.v := rfl
@[simp] theorem State.setByte_pc (s : State) (a : Nat) (b : Byte) : (s.setByte a b).pc = s.pc := rfl
@[simp] theorem State.setByte_i (s : State) (a : Nat) (b : Byte) : (s.setByte a b).i = s.i := rfl
@[simp] theorem State.setByte_sp (s : State) (a : Nat) (b : Byte) : (s.setByte a b).sp = s.sp := rfl
@[simp] theorem State.setByte_stack (s : State) (a : Nat) (b : Byte) : (s.setByte a b).stack = s.stack := rfl
@[simp] theorem State.setByte_dt (s : State) (a : Nat) (b : Byte) : (s.setByte a b).dt = s.dt := rfl
@[simp] theorem State.setByte_st (s : State) (a : Nat) (b : Byte) : (s.setByte a b).st = s.st := rfl
@[simp] theorem State.setByte_mem (s : State) (a : Nat) (b : Byte) : (s.setByte a b).mem = Memory.write s.cfg.font s.mem a b := rfl
@[simp] theorem State.setByte_fb (s : State) (a : Nat) (b : Byte) : (s.setByte a b).fb = s.fb := rfl
@[simp] theorem State.setByte_dirty (s : State) (a : Nat) (b : Byte) : (s.setByte a b).dirty = s.dirty := rfl
@[simp] theorem State.setByte_key (s : State) (a : Nat) (b : Byte) : (s.setByte a b).key = s.key := rfl
@[simp] theorem State.setByte_kde (s : State) (a : Nat) (b : Byte) : (s.setByte a b).kde = s.kde := rfl
@[simp] theorem State.setByte_tdiv (s : State) (a : Nat) (b : Byte) : (s.setByte a b).tdiv = s.tdiv := rfl
@[simp] theorem State.setByte_status (s : State) (a : Nat) (b : Byte) : (s.setByte a b).status = s.status := rfl
@[simp] theorem State.setByte_cfg (s : State) (a : Nat) (b : Byte) : (s.setByte a b).cfg = s.cfg := rfl
@[simp] theorem State.setByte_rnd (s : State) (a : Nat) (b : Byte) : (s.setByte a b).rnd = s.rnd := rfl
@[simp] theorem State.setByte_draws (s : State) (a : Nat) (b : Byte) : (s.setByte a b).draws = s.draws := rfl
@[simp] theorem State.setByte_agenda (s : State) (a : Nat) (b : Byte) : (s.setByte a b).agenda = s.agenda := rfl

@[simp] theorem State.advance_v (s : State) : (s.advance).v = s.v := rfl
@[simp] theorem State.advance_pc (s : State) : (s.advance).pc = s.pc + 2 := rfl
@[simp] theorem State.advance_i (s : State) : (s.advance).i = s.i := rfl
@[simp] theorem State.advance_sp (s : State) : (s.advance).sp = s.sp := rfl
@[simp] theorem State.advance_stack (s : State) : (s.advance).stack = s.stack := rfl
@[simp] theorem State.advance_dt (s : State) : (s.advance).dt = s.dt := rfl
@[simp] theorem State.advance_st (s : State) : (s.advance).st = s.st := rfl
@[simp] theorem State.advance_mem (s : State) : (s.advance).mem = s.mem := rfl
@[simp] theorem State.advance_fb (s : State) : (s.advance).fb = s.fb := rfl
@[simp] theorem State.advance_dirty (s : State) : (s.advance).dirty = s.dirty := rfl
@[simp] theorem State.advance_key (s : State) : (s.advance).key = s.key := rfl
@[simp] theorem State.advance_kde (s : State) : (s.advance).kde = s.kde := rfl
@[simp] theorem State.advance_tdiv (s : State) : (s.advance).tdiv = s.tdiv := rfl
@[simp] theorem State.advance_status (s : State) : (s.advance).status = s.status := rfl
@[simp] theorem State.advance_cfg (s : State) : (s.advance).cfg = s.cfg := rfl
@[simp] theorem State.advance_rnd (s : State) : (s.advance).rnd = s.rnd := rfl
@[simp] theorem State.advance_draws (s : State) : (s.advance).draws = s.draws := rfl
@[simp] theorem State.advance_agenda (s : State) : (s.advance).agenda = s.agenda := rfl

@[simp] theorem State.jump_v (s : State) (target : Word) : (s.jump target).v = s.v := rfl
@[simp] theorem State.jump_pc (s : State) (target : Word) : (s.jump target).pc = target := rfl
@[simp] theorem State.jump_i (s : State) (target : Word) : (s.jump target).i = s.i := rfl
@[simp] theorem State.jump_sp (s : State) (target : Word) : (s.jump target).sp = s.sp := rfl
@[simp] theorem State.jump_stack (s : State) (target : Word) : (s.jump target).stack = s.stack := rfl
@[simp] theorem State.jump_dt (s : State) (target : Word) : (s.jump target).dt = s.dt := rfl
@[simp] theorem State.jump_st (s : State) (target : Word) : (s.jump target).st = s.st := rfl
@[simp] theorem State.jump_mem (s : State) (target : Word) : (s.jump target).mem = s.mem := rfl
@[simp] theorem State.jump_fb (s : State) (target : Word) : (s.jump target).fb = s.fb := rfl
@[simp] theorem State.jump_dirty (s : State) (target : Word) : (s.jump target).dirty = s.dirty := rfl
@[simp] theorem State.jump_key (s : State) (target : Word) : (s.jump target).key = s.key := rfl
@[simp] theorem State.jump_kde (s : State) (target : Word) : (s.jump target).kde = s.kde := rfl
@[simp] theorem State.jump_tdiv (s : State) (target : Word) : (s.jump target).tdiv = s.tdiv := rfl
@[simp] theorem State.jump_status (s : State) (target : Word) : (s.jump target).status = s.status := rfl
@[simp] theorem State.jump_cfg (s : State) (target : Word) : (s.jump target).cfg = s.cfg := rfl
@[simp] theorem State.jump_rnd (s : State) (target : Word) : (s.jump target).rnd = s.rnd := rfl
@[simp] theorem State.jump_draws (s : State) (target : Word) : (s.jump target).draws = s.draws := rfl
@[simp] theorem State.jump_agenda (s : State) (target : Word) : (s.jump target).agenda = s.agenda := rfl

@[simp] theorem State.skipIf_v (s : State) (c : Bool) : (s.skipIf c).v = s.v := rfl
@[simp] theorem State.skipIf_pc (s : State) (c : Bool) : (s.skipIf c).pc = if c then s.pc + 2 + 2 else s.pc + 2 := rfl
@[simp] theorem State.skipIf_i (s : State) (c : Bool) : (s.skipIf c).i = s.i := rfl
@[simp] theorem State.skipIf_sp (s : State) (c : Bool) : (s.skipIf c).sp = s.sp := rfl
@[simp] theorem State.skipIf_stack (s : State) (c : Bool) : (s.skipIf c).stack = s.stack := rfl
@[simp] theorem State.skipIf_dt (s : State) (c : Bool) : (s.skipIf c).dt = s.dt := rfl
@[simp] theorem State.skipIf_st (s : State) (c : Bool) : (s.skipIf c).st = s.st := rfl
@[simp] theorem State.skipIf_mem (s : State) (c : Bool) : (s.skipIf c).mem = s.mem := rfl
@[simp] theorem State.skipIf_fb (s : State) (c : Bool) : (s.skipIf c).fb = s.fb := rfl
@[simp] theorem State.skipIf_dirty (s : State) (c : Bool) : (s.skipIf c).dirty = s.dirty := rfl
@[simp] theorem State.skipIf_key (s : State) (c : Bool) : (s.skipIf c).key = s.key := rfl
@[simp] theorem State.skipIf_kde (s : State) (c : Bool) : (s.skipIf c).kde = s.kde := rfl
@[simp] theorem State.skipIf_tdiv (s : State) (c : Bool) : (s.skipIf c).tdiv = s.tdiv := rfl
@[simp] theorem State.skipIf_status (s : State) (c : Bool) : (s.skipIf c).status = s.status := rfl
@[simp] theorem State.skipIf_cfg (s : State) (c : Bool) : (s.skipIf c).cfg = s.cfg := rfl
@[simp] theorem State.skipIf_rnd (s : State) (c : Bool) : (s.skipIf c).rnd = s.rnd := rfl
@[simp] theorem State.skipIf_draws (s : State) (c : Bool) : (s.skipIf c).draws = s.draws := rfl
@[simp] theorem State.skipIf_agenda (s : State) (c : Bool) : (s.skipIf c).agenda = s.agenda := rfl

@[simp] theorem State.setFlag_pc (s : State) (f : Bool) : (s.setFlag f).pc = s.pc := rfl
@[simp] theorem State.setFlag_i (s : State) (f : Bool) : (s.setFlag f).i = s.i := rfl
@[simp] theorem State.setFlag_sp (s : State) (f : Bool) : (s.setFlag f).sp = s.sp := rfl
@[simp] theorem State.setFlag_stack (s : State) (f : Bool) : (s.setFlag f).stack = s.stack := rfl
@[simp] theorem State.setFlag_dt (s : State) (f : Bool) : (s.setFlag f).dt = s.dt := rfl
@[simp] theorem State.setFlag_st (s : State) (f : Bool) : (s.setFlag f).st = s.st := rfl
@[simp] theorem State.setFlag_mem (s : State) (f : Bool) : (s.setFlag f).mem = s.mem := rfl
@[simp] theorem State.setFlag_fb (s : State) (f : Bool) : (s.setFlag f).fb = s.fb := rfl
@[simp] theorem State.setFlag_dirty (s : State) (f : Bool) : (s.setFlag f).dirty = s.dirty := rfl
@[simp] theorem State.setFlag_key (s : State) (f : Bool) : (s.setFlag f).key = s.key := rfl
@[simp] theorem State.setFlag_kde (s : State) (f : Bool) : (s.setFlag f).kde = s.kde := rfl
@[simp] theorem State.setFlag_tdiv (s : State) (f : Bool) : (s.setFlag f).tdiv = s.tdiv := rfl
@[simp] theorem State.setFlag_status (s : State) (f : Bool) : (s.setFlag f).status = s.status := rfl
@[simp] theorem State.setFlag_cfg (s : State) (f : Bool) : (s.setFlag f).cfg = s.cfg := rfl
@[simp] theorem State.setFlag_rnd (s : State) (f : Bool) : (s.setFlag f).rnd = s.rnd := rfl
@[simp] theorem State.setFlag_draws (s : State) (f : Bool) : (s.setFlag f).draws = s.draws := rfl
@[simp] theorem State.setFlag_agenda (s : State) (f : Bool) : (s.setFlag f).agenda = s.agenda := rfl

@[simp] theorem State.setResultFlag_pc (s : State) (x : Nibble) (r : Byte × Bool) : (s.setResultFlag x r).pc = s.pc := rfl
@[simp] theorem State.setResultFlag_i (s : State) (x : Nibble) (r : Byte × Bool) : (s.setResultFlag x r).i = s.i := rfl
@[simp] theorem State.setResultFlag_sp (s : State) (x : Nibble) (r : Byte × Bool) : (s.setResultFlag x r).sp = s.sp := rfl
@[simp] theorem State.setResultFlag_stack (s : State) (x : Nibble) (r : Byte × Bool) : (s.setResultFlag x r).stack = s.stack := rfl
@[simp] theorem State.setResultFlag_dt (s : State) (x : Nibble) (r : Byte × Bool) : (s.setResultFlag x r).dt = s.dt := rfl
@[simp] theorem State.setResultFlag_st (s : State) (x : Nibble) (r : Byte × Bool) : (s.setResultFlag x r).st = s.st := rfl
@[simp] theorem State.setResultFlag_mem (s : State) (x : Nibble) (r : Byte × Bool) : (s.setResultFlag x r).mem = s.mem := rfl
@[simp] theorem State.setResultFlag_fb (s : State) (x : Nibble) (r : Byte × Bool) : (s.setResultFlag x r).fb = s.fb := rfl
@[simp] theorem State.setResultFlag_dirty (s : State) (x : Nibble) (r : Byte × Bool) : (s.setResultFlag x r).dirty = s.dirty := rfl
@[simp] theorem State.setResultFlag_key (s : State) (x : Nibble) (r : Byte × Bool) : (s.setResultFlag x r).key = s.key := rfl
@[simp] theorem State.setResultFlag_kde (s : State) (x : Nibble) (r : Byte × Bool) : (s.setResultFlag x r).kde = s.kde := rfl
@[simp] theorem State.setResultFlag_tdiv (s : State) (x : Nibble) (r : Byte × Bool) : (s.setResultFlag x r).tdiv = s.tdiv := rfl
@[simp] theorem State.setResultFlag_status (s : State) (x : Nibble) (r : Byte × Bool) : (s.setResultFlag x r).status = s.status := rfl
@[simp] theorem State.setResultFlag_cfg (s : State) (x : Nibble) (r : Byte × Bool) : (s.setResultFlag x r).cfg = s.cfg := rfl
@[simp] theorem State.setResultFlag_rnd (s : State) (x : Nibble) (r : Byte × Bool) : (s.setResultFlag x r).rnd = s.rnd := rfl
@[simp] theorem State.setResultFlag_draws (s : State) (x : Nibble) (r : Byte × Bool) : (s.setResultFlag x r).draws = s.draws := rfl
@[simp] theorem State.setResultFlag_agenda (s : State) (x : Nibble) (r : Byte × Bool) : (s.setResultFlag x r).agenda = s.agenda := rfl

@[simp] theorem State.setIndexFlag_pc (s : State) (f : Bool) : (s.setIndexFlag f).pc = s.pc := rfl
@[simp] theorem State.setIndexFlag_i (s : State) (f : Bool) : (s.setIndexFlag f).i = s.i := rfl
@[simp] theorem State.setIndexFlag_sp (s : State) (f : Bool) : (s.setIndexFlag f).sp = s.sp := rfl
@[simp] theorem State.setIndexFlag_stack (s : State) (f : Bool) : (s.setIndexFlag f).stack = s.stack := rfl
@[simp] theorem State.setIndexFlag_dt (s : State) (f : Bool) : (s.setIndexFlag f).dt = s.dt := rfl
@[simp] theorem State.setIndexFlag_st (s : State) (f : Bool) : (s.setIndexFlag f).st = s.st := rfl
@[simp] theorem State.setIndexFlag_mem (s : State) (f : Bool) : (s.setIndexFlag f).mem = s.mem := rfl
@[simp] theorem State.setIndexFlag_fb (s : State) (f : Bool) : (s.setIndexFlag f).fb = s.fb := rfl
@[simp] theorem State.setIndexFlag_dirty (s : State) (f : Bool) : (s.setIndexFlag f).dirty = s.dirty := rfl
@[simp] theorem State.setIndexFlag_key (s : State) (f : Bool) : (s.setIndexFlag f).key = s.key := rfl
@[simp] theorem State.setIndexFlag_kde (s : State) (f : Bool) : (s.setIndexFlag f).kde = s.kde := rfl
@[simp] theorem State.setIndexFlag_tdiv (s : State) (f : Bool) : (s.setIndexFlag f).tdiv = s.tdiv := rfl
@[simp] theorem State.setIndexFlag_status (s : State) (f : Bool) : (s.setIndexFlag f).status = s.status := rfl
@[simp] theorem State.setIndexFlag_cfg (s : State) (f : Bool) : (s.setIndexFlag f).cfg = s.cfg := rfl
@[simp] theorem State.setIndexFlag_rnd (s : State) (f : Bool) : (s.setIndexFlag f).rnd = s.rnd := rfl
@[simp] theorem State.setIndexFlag_draws (s : State) (f : Bool) : (s.setIndexFlag f).draws = s.draws := rfl
@[simp] theorem State.setIndexFlag_agenda (s : State) (f : Bool) : (s.setIndexFlag f).agenda = s.agenda := rfl

@[simp] theorem State.timerTick_v (s : State) : (s.timerTick).v = s.v := rfl
@[simp] theorem State.timerTick_pc (s : State) : (s.timerTick).pc = s.pc := rfl
@[simp] theorem State.timerTick_i (s : State) : (s.timerTick).i = s.i := rfl
@[simp] theorem State.timerTick_sp (s : State) : (s.timerTick).sp = s.sp := rfl
@[simp] theorem State.timerTick_stack (s : State) : (s.timerTick).stack = s.stack := rfl
@[simp] theorem State.timerTick_dt (s : State) : (s.timerTick).dt = tickDown s.dt := rfl
@[simp] theorem State.timerTick_st (s : State) : (s.timerTick).st = tickDown s.st := rfl
@[simp] theorem State.timerTick_mem (s : State) : (s.timerTick).mem = s.mem := rfl
@[simp] theorem State.timerTick_fb (s : State) : (s.timerTick).fb = s.fb := rfl
@[simp] theorem State.timerTick_dirty (s : State) : (s.timerTick).dirty = s.dirty := rfl
@[simp] theorem State.timerTick_key (s : State) : (s.timerTick).key = s.key := rfl
@[simp] theorem State.timerTick_kde (s : State) : (s.timerTick).kde = s.kde := rfl
@[simp] theorem State.timerTick_tdiv (s : State) : (s.timerTick).tdiv = s.tdiv := rfl
@[simp] theorem State.timerTick_status (s : State) : (s.timerTick).status = s.status := rfl
@[simp] theorem State.timerTick_cfg (s : State) : (s.timerTick).cfg = s.cfg := rfl
@[simp] theorem State.timerTick_rnd (s : State) : (s.timerTick).rnd = s.rnd := rfl
@[simp] theorem State.timerTick_draws (s : State) : (s.timerTick).draws = s.draws := rfl
@[simp] theorem State.timerTick_agenda (s : State) : (s.timerTick).agenda = s.agenda := rfl

@[simp] theorem State.instrCountTick_v (s : State) : (s.instrCountTick).v = s.v := rfl
@[simp] theorem State.instrCountTick_pc (s : State) : (s.instrCountTick).pc = s.pc := rfl
@[simp] theorem State.instrCountTick_i (s : State) : (s.instrCountTick).i = s.i := rfl
@[simp] theorem State.instrCountTick_sp (s : State) : (s.instrCountTick).sp = s.sp := rfl
@[simp] theorem State.instrCountTick_stack (s : State) : (s.instrCountTick).stack = s.stack := rfl
@[simp] theorem State.instrCountTick_dt (s : State) : (s.instrCountTick).dt = if s.dividerFull then tickDown s.dt else s.dt := rfl
@[simp] theorem State.instrCountTick_st (s : State) : (s.instrCountTick).st = if s.dividerFull then tickDown s.st else s.st := rfl
@[simp] theorem State.instrCountTick_mem (s : State) : (s.instrCountTick).mem = s.mem := rfl
@[simp] theorem State.instrCountTick_fb (s : State) : (s.instrCountTick).fb = s.fb := rfl
@[simp] theorem State.instrCountTick_dirty (s : State) : (s.instrCountTick).dirty = s.dirty := rfl
@[simp] theorem State.instrCountTick_key (s : State) : (s.instrCountTick).key = s.key := rfl
@[simp] theorem State.instrCountTick_kde (s : State) : (s.instrCountTick).kde = s.kde := rfl
@[simp] theorem State.instrCountTick_tdiv (s : State) : (s.instrCountTick).tdiv = if s.dividerFull then 0 else s.tdiv + 1 := rfl
@[simp] theorem State.instrCountTick_status (s : State) : (s.instrCountTick).status = s.status := rfl
@[simp] theorem State.instrCountTick_cfg (s : State) : (s.instrCountTick).cfg = s.cfg := rfl
@[simp] theorem State.instrCountTick_rnd (s : State) : (s.instrCountTick).rnd = s.rnd := rfl
@[simp] theorem State.instrCountTick_draws (s : State) : (s.instrCountTick).draws = s.draws := rfl
@[simp] theorem State.instrCountTick_agenda (s : State) : (s.instrCountTick).agenda = s.agenda := rfl

@[simp] theorem State.endOfCycle_v (s : State) : (s.endOfCycle).v = s.v := rfl
@[simp] theorem State.endOfCycle_pc (s : State) : (s.endOfCycle).pc = s.pc := rfl
@[simp] theorem State.endOfCycle_i (s : State) : (s.endOfCycle).i = s.i := rfl
@[simp] theorem State.endOfCycle_sp (s : State) : (s.endOfCycle).sp = s.sp := rfl
@[simp] theorem State.endOfCycle_stack (s : State) : (s.endOfCycle).stack = s.stack := rfl
@[simp] theorem State.endOfCycle_dt (s : State) : (s.endOfCycle).dt = if s.countsInstrs then s.instrCountTick.dt else s.dt := rfl
@[simp] theorem State.endOfCycle_st (s : State) : (s.endOfCycle).st = if s.countsInstrs then s.instrCountTick.st else s.st := rfl
@[simp] theorem State.endOfCycle_mem (s : State) : (s.endOfCycle).mem = s.mem := rfl
@[simp] theorem State.endOfCycle_fb (s : State) : (s.endOfCycle).fb = s.fb := rfl
@[simp] theorem State.endOfCycle_dirty (s : State) : (s.endOfCycle).dirty = s.dirty := rfl
@[simp] theorem State.endOfCycle_key (s : State) : (s.endOfCycle).key = s.key := rfl
@[simp] theorem State.endOfCycle_kde (s : State) : (s.endOfCycle).kde = none := rfl
@[simp] theorem State.endOfCycle_tdiv (s : State) : (s.endOfCycle).tdiv = if s.countsInstrs then s.instrCountTick.tdiv else s.tdiv := rfl
@[simp] theorem State.endOfCycle_status (s : State) : (s.endOfCycle).status = s.status := rfl
@[simp] theorem State.endOfCycle_cfg (s : State) : (s.endOfCycle).cfg = s.cfg := rfl
@[simp] theorem State.endOfCycle_rnd (s : State) : (s.endOfCycle).rnd = s.rnd := rfl
@[simp] theorem State.endOfCycle_draws (s : State) : (s.endOfCycle).draws = s.draws := rfl
@[simp] theorem State.endOfCycle_agenda (s : State) : (s.endOfCycle).agenda = s.agenda := rfl

@[simp] theorem State.keyDown_v (s : State) (k : Nibble) : (s.keyDown k).v = s.v := rfl
@[simp] theorem State.keyDown_pc (s : State) (k : Nibble) : (s.keyDown k).pc = s.pc := rfl
@[simp] theorem State.keyDown_i (s : State) (k : Nibble) : (s.keyDown k).i = s.i := rfl
@[simp] theorem State.keyDown_sp (s : State) (k : Nibble) : (s.keyDown k).sp = s.sp := rfl
@[simp] theorem State.keyDown_stack (s : State) (k : Nibble) : (s.keyDown k).stack = s.stack := rfl
@[simp] theorem State.keyDown_dt (s : State) (k : Nibble) : (s.keyDown k).dt = s.dt := rfl
@[simp] theorem State.keyDown_st (s : State) (k : Nibble) : (s.keyDown k).st = s.st := rfl
@[simp] theorem State.keyDown_mem (s : State) (k : Nibble) : (s.keyDown k).mem = s.mem := rfl
@[simp] theorem State.keyDown_fb (s : State) (k : Nibble) : (s.keyDown k).fb = s.fb := rfl
@[simp] theorem State.keyDown_dirty (s : State) (k : Nibble) : (s.keyDown k).dirty = s.dirty := rfl
@[simp] theorem State.keyDown_key (s : State) (k : Nibble) : (s.keyDown k).key = some k := rfl
@[simp] theorem State.keyDown_kde (s : State) (k : Nibble) : (s.keyDown k).kde = some k := rfl
@[simp] theorem State.keyDown_tdiv (s : State) (k : Nibble) : (s.keyDown k).tdiv = s.tdiv := rfl
@[simp] theorem State.keyDown_status (s : State) (k : Nibble) : (s.keyDown k).status = s.status := rfl
@[simp] theorem State.keyDown_cfg (s : State) (k : Nibble) : (s.keyDown k).cfg = s.cfg := rfl
@[simp] theorem State.keyDown_rnd (s : State) (k : Nibble) : (s.keyDown k).rnd = s.rnd := rfl
@[simp] theorem State.keyDown_draws (s : State) (k : Nibble) : (s.keyDown k).draws = s.draws := rfl
@[simp] theorem State.keyDown_agenda (s : State) (k : Nibble) : (s.keyDown k).agenda = s.agenda := rfl

@[simp] theorem State.keyUp_v (s : State) (k : Nibble) : (s.keyUp k).v = s.v := rfl
@[simp] theorem State.keyUp_pc (s : State) (k : Nibble) : (s.keyUp k).pc = s.pc := rfl
@[simp] theorem State.keyUp_i (s : State) (k : Nibble) : (s.keyUp k).i = s.i := rfl
@[simp] theorem State.keyUp_sp (s : State) (k : Nibble) : (s.keyUp k).sp = s.sp := rfl
@[simp] theorem State.keyUp_stack (s : State) (k : Nibble) : (s.keyUp k).stack = s.stack := rfl
@[simp] theorem State.keyUp_dt (s : State) (k : Nibble) : (s.keyUp k).dt = s.dt := rfl
@[simp] theorem State.keyUp_st (s : State) (k : Nibble) : (s.keyUp k).st = s.st := rfl
@[simp] theorem State.keyUp_mem (s : State) (k : Nibble) : (s.keyUp k).mem = s.mem := rfl
@[simp] theorem State.keyUp_fb (s : State) (k : Nibble) : (s.keyUp k).fb = s.fb := rfl
@[simp] theorem State.keyUp_dirty (s : State) (k : Nibble) : (s.keyUp k).dirty = s.dirty := rfl
@[simp] theorem State.keyUp_key (s : State) (k : Nibble) : (s.keyUp k).key = none := rfl
@[simp] theorem State.keyUp_kde (s : State) (k : Nibble) : (s.keyUp k).kde = s.kde := rfl
@[simp] theorem State.keyUp_tdiv (s : State) (k : Nibble) : (s.keyUp k).tdiv = s.tdiv := rfl
@[simp] theorem State.keyUp_status (s : State) (k : Nibble) : (s.keyUp k).status = s.status := rfl
@[simp] theorem State.keyUp_cfg (s : State) (k : Nibble) : (s.keyUp k).cfg = s.cfg := rfl
@[simp] theorem State.keyUp_rnd (s : State) (k : Nibble) : (s.keyUp k).rnd = s.rnd := rfl
@[simp] theorem State.keyUp_draws (s : State) (k : Nibble) : (s.keyUp k).draws = s.draws := rfl
@[simp] theorem State.keyUp_agenda (s : State) (k : Nibble) : (s.keyUp k).agenda = s.agenda := rfl

@[simp] theorem State.ackDirty_v (s : State) : (s.ackDirty).v = s.v := rfl
@[simp] theorem State.ackDirty_pc (s : State) : (s.ackDirty).pc = s.pc := rfl
@[simp] theorem State.ackDirty_i (s : State) : (s.ackDirty).i = s.i := rfl
@[simp] theorem State.ackDirty_sp (s : State) : (s.ackDirty).sp = s.sp := rfl
@[simp] theorem State.ackDirty_stack (s : State) : (s.ackDirty).stack = s.stack := rfl
@[simp] theorem State.ackDirty_dt (s : State) : (s.ackDirty).dt = s.dt := rfl
@[simp] theorem State.ackDirty_st (s : State) : (s.ackDirty).st = s.st := rfl
@[simp] theorem State.ackDirty_mem (s : State) : (s.ackDirty).mem = s.mem := rfl
@[simp] theorem State.ackDirty_fb (s : State) : (s.ackDirty).fb = s.fb := rfl
@[simp] theorem State.ackDirty_dirty (s : State) : (s.ackDirty).dirty = false := rfl
@[simp] theorem State.ackDirty_key (s : State) : (s.ackDirty).key = s.key := rfl
@[simp] theorem State.ackDirty_kde (s : State) : (s.ackDirty).kde = s.kde := rfl
@[simp] theorem State.ackDirty_tdiv (s : State) : (s.ackDirty).tdiv = s.tdiv := rfl
@[simp] theorem State.ackDirty_status (s : State) : (s.ackDirty).status = s.status := rfl
@[simp] theorem State.ackDirty_cfg (s : State) : (s.ackDirty).cfg = s.cfg := rfl
@[simp] theorem State.ackDirty_rnd (s : State) : (s.ackDirty).rnd = s.rnd := rfl
@[simp] theorem State.ackDirty_draws (s : State) : (s.ackDirty).draws = s.draws := rfl
@[simp] theorem State.ackDirty_agenda (s : State) : (s.ackDirty).agenda = s.agenda := rfl

@[simp] theorem State.quitRun_v (s : State) : (s.quitRun).v = s.v := rfl
@[simp] theorem State.quitRun_pc (s : State) : (s.quitRun).pc = s.pc := rfl
@[simp] theorem State.quitRun_i (s : State) : (s.quitRun).i = s.i := rfl
@[simp] theorem State.quitRun_sp (s : State) : (s.quitRun).sp = s.sp := rfl
@[simp] theorem State.quitRun_stack (s : State) : (s.quitRun).stack = s.stack := rfl
@[simp] theorem State.quitRun_dt (s : State) : (s.quitRun).dt = s.dt := rfl
@[simp] theorem State.quitRun_st (s : State) : (s.quitRun).st = s.st := rfl
@[simp] theorem State.quitRun_mem (s : State) : (s.quitRun).mem = s.mem := rfl
@[simp] theorem State.quitRun_fb (s : State) : (s.quitRun).fb = s.fb := rfl
@[simp] theorem State.quitRun_dirty (s : State) : (s.quitRun).dirty = s.dirty := rfl
@[simp] theorem State.quitRun_key (s : State) : (s.quitRun).key = s.key := rfl
@[simp] theorem State.quitRun_kde (s : State) : (s.quitRun).kde = s.kde := rfl
@[simp] theorem State.quitRun_tdiv (s : State) : (s.quitRun).tdiv = s.tdiv := rfl
@[simp] theorem State.quitRun_status (s : State) : (s.quitRun).status = if s.status = .running then .quit else s.status := rfl
@[simp] theorem State.quitRun_cfg (s : State) : (s.quitRun).cfg = s.cfg := rfl
@[simp] theorem State.quitRun_rnd (s : State) : (s.quitRun).rnd = s.rnd := rfl
@[simp] theorem State.quitRun_draws (s : State) : (s.quitRun).draws = s.draws := rfl
@[simp] theorem State.quitRun_agenda (s : State) : (s.quitRun).agenda = s.agenda := rfl
@[simp] theorem State.faulted_v (s : State) (f : FaultRecord) : (s.faulted f).v = s.v := rfl
@[simp] theorem State.faulted_pc (s : State) (f : FaultRecord) : (s.faulted f).pc = s.pc := rfl
@[simp] theorem State.faulted_i (s : State) (f : FaultRecord) : (s.faulted f).i = s.i := rfl
@[simp] theorem State.faulted_sp (s : State) (f : FaultRecord) : (s.faulted f).sp = s.sp := rfl
@[simp] theorem State.faulted_stack (s : State) (f : FaultRecord) : (s.faulted f).stack = s.stack := rfl
@[simp] theorem State.faulted_dt (s : State) (f : FaultRecord) : (s.faulted f).dt = s.dt := rfl
@[simp] theorem State.faulted_st (s : State) (f : FaultRecord) : (s.faulted f).st = s.st := rfl
@[simp] theorem State.faulted_mem (s : State) (f : FaultRecord) : (s.faulted f).mem = s.mem := rfl
@[simp] theorem State.faulted_fb (s : State) (f : FaultRecord) : (s.faulted f).fb = s.fb := rfl
@[simp] theorem State.faulted_dirty (s : State) (f : FaultRecord) : (s.faulted f).dirty = s.dirty := rfl
@[simp] theorem State.faulted_key (s : State) (f : FaultRecord) : (s.faulted f).key = s.key := rfl
@[simp] theorem State.faulted_kde (s : State) (f : FaultRecord) : (s.faulted f).kde = s.kde := rfl
@[simp] theorem State.faulted_tdiv (s : State) (f : FaultRecord) : (s.faulted f).tdiv = s.tdiv := rfl
@[simp] theorem State.faulted_status (s : State) (f : FaultRecord) : (s.faulted f).status = .faulted f := rfl
@[simp] theorem State.faulted_cfg (s : State) (f : FaultRecord) : (s.faulted f).cfg = s.cfg := rfl
@[simp] theorem State.faulted_rnd (s : State) (f : FaultRecord) : (s.faulted f).rnd = s.rnd := rfl
@[simp] theorem State.faulted_draws (s : State) (f : FaultRecord) : (s.faulted f).draws = s.draws := rfl
@[simp] theorem State.faulted_agenda (s : State) (f : FaultRecord) : (s.faulted f).agenda = s.agenda := rfl

@[simp] theorem State.latchRnd_v (s : State) (rnd : Byte) : (s.latchRnd rnd).v = s.v := rfl
@[simp] theorem State.latchRnd_pc (s : State) (rnd : Byte) : (s.latchRnd rnd).pc = s.pc := rfl
@[simp] theorem State.latchRnd_i (s : State) (rnd : Byte) : (s.latchRnd rnd).i = s.i := rfl
@[simp] theorem State.latchRnd_sp (s : State) (rnd : Byte) : (s.latchRnd rnd).sp = s.sp := rfl
@[simp] theorem State.latchRnd_stack (s : State) (rnd : Byte) : (s.latchRnd rnd).stack = s.stack := rfl
@[simp] theorem State.latchRnd_dt (s : State) (rnd : Byte) : (s.latchRnd rnd).dt = s.dt := rfl
@[simp] theorem State.latchRnd_st (s : State) (rnd : Byte) : (s.latchRnd rnd).st = s.st := rfl
@[simp] theorem State.latchRnd_mem (s : State) (rnd : Byte) : (s.latchRnd rnd).mem = s.mem := rfl
@[simp] theorem State.latchRnd_fb (s : State) (rnd : Byte) : (s.latchRnd rnd).fb = s.fb := rfl
@[simp] theorem State.latchRnd_dirty (s : State) (rnd : Byte) : (s.latchRnd rnd).dirty = s.dirty := rfl
@[simp] theorem State.latchRnd_key (s : State) (rnd : Byte) : (s.latchRnd rnd).key = s.key := rfl
@[simp] theorem State.latchRnd_kde (s : State) (rnd : Byte) : (s.latchRnd rnd).kde = s.kde := rfl
@[simp] theorem State.latchRnd_tdiv (s : State) (rnd : Byte) : (s.latchRnd rnd).tdiv = s.tdiv := rfl
@[simp] theorem State.latchRnd_status (s : State) (rnd : Byte) : (s.latchRnd rnd).status = s.status := rfl
@[simp] theorem State.latchRnd_cfg (s : State) (rnd : Byte) : (s.latchRnd rnd).cfg = s.cfg := rfl
@[simp] theorem State.latchRnd_rnd (s : State) (rnd : Byte) : (s.latchRnd rnd).rnd = rnd := rfl
@[simp] theorem State.latchRnd_draws (s : State) (rnd : Byte) : (s.latchRnd rnd).draws = s.draws := rfl
@[simp] theorem State.latchRnd_agenda (s : State) (rnd : Byte) : (s.latchRnd rnd).agenda = s.agenda := rfl

@[simp] theorem State.setAgenda_v (s : State) (rest : List HostAction) : (s.setAgenda rest).v = s.v := rfl
@[simp] theorem State.setAgenda_pc (s : State) (rest : List HostAction) : (s.setAgenda rest).pc = s.pc := rfl
@[simp] theorem State.setAgenda_i (s : State) (rest : List HostAction) : (s.setAgenda rest).i = s.i := rfl
@[simp] theorem State.setAgenda_sp (s : State) (rest : List HostAction) : (s.setAgenda rest).sp = s.sp := rfl
@[simp] theorem State.setAgenda_stack (s : State) (rest : List HostAction) : (s.setAgenda rest).stack = s.stack := rfl
@[simp] theorem State.setAgenda_dt (s : State) (rest : List HostAction) : (s.setAgenda rest).dt = s.dt := rfl
@[simp] theorem State.setAgenda_st (s : State) (rest : List HostAction) : (s.setAgenda rest).st = s.st := rfl
@[simp] theorem State.setAgenda_mem (s : State) (rest : List HostAction) : (s.setAgenda rest).mem = s.mem := rfl
@[simp] theorem State.setAgenda_fb (s : State) (rest : List HostAction) : (s.setAgenda rest).fb = s.fb := rfl
@[simp] theorem State.setAgenda_dirty (s : State) (rest : List HostAction) : (s.setAgenda rest).dirty = s.dirty := rfl
@[simp] theorem State.setAgenda_key (s : State) (rest : List HostAction) : (s.setAgenda rest).key = s.key := rfl
@[simp] theorem State.setAgenda_kde (s : State) (rest : List HostAction) : (s.setAgenda rest).kde = s.kde := rfl
@[simp] theorem State.setAgenda_tdiv (s : State) (rest : List HostAction) : (s.setAgenda rest).tdiv = s.tdiv := rfl
@[simp] theorem State.setAgenda_status (s : State) (rest : List HostAction) : (s.setAgenda rest).status = s.status := rfl
@[simp] theorem State.setAgenda_cfg (s : State) (rest : List HostAction) : (s.setAgenda rest).cfg = s.cfg := rfl
@[simp] theorem State.setAgenda_rnd (s : State) (rest : List HostAction) : (s.setAgenda rest).rnd = s.rnd := rfl
@[simp] theorem State.setAgenda_draws (s : State) (rest : List HostAction) : (s.setAgenda rest).draws = s.draws := rfl
@[simp] theorem State.setAgenda_agenda (s : State) (rest : List HostAction) : (s.setAgenda rest).agenda = rest := rfl

@[simp] theorem State.countDraw_v (s : State) : (s.countDraw).v = s.v := rfl
@[simp] theorem State.countDraw_pc (s : State) : (s.countDraw).pc = s.pc := rfl
@[simp] theorem State.countDraw_i (s : State) : (s.countDraw).i = s.i := rfl
@[simp] theorem State.countDraw_sp (s : State) : (s.countDraw).sp = s.sp := rfl
@[simp] theorem State.countDraw_stack (s : State) : (s.countDraw).stack = s.stack := rfl
@[simp] theorem State.countDraw_dt (s : State) : (s.countDraw).dt = s.dt := rfl
@[simp] theorem State.countDraw_st (s : State) : (s.countDraw).st = s.st := rfl
@[simp] theorem State.countDraw_mem (s : State) : (s.countDraw).mem = s.mem := rfl
@[simp] theorem State.countDraw_fb (s : State) : (s.countDraw).fb = s.fb := rfl
@[simp] theorem State.countDraw_dirty (s : State) : (s.countDraw).dirty = s.dirty := rfl
@[simp] theorem State.countDraw_key (s : State) : (s.countDraw).key = s.key := rfl
@[simp] theorem State.countDraw_kde (s : State) : (s.countDraw).kde = s.kde := rfl
@[simp] theorem State.countDraw_tdiv (s : State) : (s.countDraw).tdiv = s.tdiv := rfl
@[simp] theorem State.countDraw_status (s : State) : (s.countDraw).status = s.status := rfl
@[simp] theorem State.countDraw_cfg (s : State) : (s.countDraw).cfg = s.cfg := rfl
@[simp] theorem State.countDraw_rnd (s : State) : (s.countDraw).rnd = s.rnd := rfl
@[simp] theorem State.countDraw_draws (s : State) : (s.countDraw).draws = s.draws + 1 := rfl
@[simp] theorem State.countDraw_agenda (s : State) : (s.countDraw).agenda = s.agenda := rfl

@[simp] theorem State.writeRegs_v (s : State) (v : Vector Byte 16) : (s.writeRegs v).v = v := rfl
@[simp] theorem State.writeRegs_pc (s : State) (v : Vector Byte 16) : (s.writeRegs v).pc = s.pc := rfl
@[simp] theorem State.writeRegs_i (s : State) (v : Vector Byte 16) : (s.writeRegs v).i = s.i := rfl
@[simp] theorem State.writeRegs_sp (s : State) (v : Vector Byte 16) : (s.writeRegs v).sp = s.sp := rfl
@[simp] theorem State.writeRegs_stack (s : State) (v : Vector Byte 16) : (s.writeRegs v).stack = s.stack := rfl
@[simp] theorem State.writeRegs_dt (s : State) (v : Vector Byte 16) : (s.writeRegs v).dt = s.dt := rfl
@[simp] theorem State.writeRegs_st (s : State) (v : Vector Byte 16) : (s.writeRegs v).st = s.st := rfl
@[simp] theorem State.writeRegs_mem (s : State) (v : Vector Byte 16) : (s.writeRegs v).mem = s.mem := rfl
@[simp] theorem State.writeRegs_fb (s : State) (v : Vector Byte 16) : (s.writeRegs v).fb = s.fb := rfl
@[simp] theorem State.writeRegs_dirty (s : State) (v : Vector Byte 16) : (s.writeRegs v).dirty = s.dirty := rfl
@[simp] theorem State.writeRegs_key (s : State) (v : Vector Byte 16) : (s.writeRegs v).key = s.key := rfl
@[simp] theorem State.writeRegs_kde (s : State) (v : Vector Byte 16) : (s.writeRegs v).kde = s.kde := rfl
@[simp] theorem State.writeRegs_tdiv (s : State) (v : Vector Byte 16) : (s.writeRegs v).tdiv = s.tdiv := rfl
@[simp] theorem State.writeRegs_status (s : State) (v : Vector Byte 16) : (s.writeRegs v).status = s.status := rfl
@[simp] theorem State.writeRegs_cfg (s : State) (v : Vector Byte 16) : (s.writeRegs v).cfg = s.cfg := rfl
@[simp] theorem State.writeRegs_rnd (s : State) (v : Vector Byte 16) : (s.writeRegs v).rnd = s.rnd := rfl
@[simp] theorem State.writeRegs_draws (s : State) (v : Vector Byte 16) : (s.writeRegs v).draws = s.draws := rfl
@[simp] theorem State.writeRegs_agenda (s : State) (v : Vector Byte 16) : (s.writeRegs v).agenda = s.agenda := rfl

@[simp] theorem State.writeIndex_v (s : State) (w : Word) : (s.writeIndex w).v = s.v := rfl
@[simp] theorem State.writeIndex_pc (s : State) (w : Word) : (s.writeIndex w).pc = s.pc := rfl
@[simp] theorem State.writeIndex_i (s : State) (w : Word) : (s.writeIndex w).i = w := rfl
@[simp] theorem State.writeIndex_sp (s : State) (w : Word) : (s.writeIndex w).sp = s.sp := rfl
@[simp] theorem State.writeIndex_stack (s : State) (w : Word) : (s.writeIndex w).stack = s.stack := rfl
@[simp] theorem State.writeIndex_dt (s : State) (w : Word) : (s.writeIndex w).dt = s.dt := rfl
@[simp] theorem State.writeIndex_st (s : State) (w : Word) : (s.writeIndex w).st = s.st := rfl
@[simp] theorem State.writeIndex_mem (s : State) (w : Word) : (s.writeIndex w).mem = s.mem := rfl
@[simp] theorem State.writeIndex_fb (s : State) (w : Word) : (s.writeIndex w).fb = s.fb := rfl
@[simp] theorem State.writeIndex_dirty (s : State) (w : Word) : (s.writeIndex w).dirty = s.dirty := rfl
@[simp] theorem State.writeIndex_key (s : State) (w : Word) : (s.writeIndex w).key = s.key := rfl
@[simp] theorem State.writeIndex_kde (s : State) (w : Word) : (s.writeIndex w).kde = s.kde := rfl
@[simp] theorem State.writeIndex_tdiv (s : State) (w : Word) : (s.writeIndex w).tdiv = s.tdiv := rfl
@[simp] theorem State.writeIndex_status (s : State) (w : Word) : (s.writeIndex w).status = s.status := rfl
@[simp] theorem State.writeIndex_cfg (s : State) (w : Word) : (s.writeIndex w).cfg = s.cfg := rfl
@[simp] theorem State.writeIndex_rnd (s : State) (w : Word) : (s.writeIndex w).rnd = s.rnd := rfl
@[simp] theorem State.writeIndex_draws (s : State) (w : Word) : (s.writeIndex w).draws = s.draws := rfl
@[simp] theorem State.writeIndex_agenda (s : State) (w : Word) : (s.writeIndex w).agenda = s.agenda := rfl

@[simp] theorem State.writeDelay_v (s : State) (b : Byte) : (s.writeDelay b).v = s.v := rfl
@[simp] theorem State.writeDelay_pc (s : State) (b : Byte) : (s.writeDelay b).pc = s.pc := rfl
@[simp] theorem State.writeDelay_i (s : State) (b : Byte) : (s.writeDelay b).i = s.i := rfl
@[simp] theorem State.writeDelay_sp (s : State) (b : Byte) : (s.writeDelay b).sp = s.sp := rfl
@[simp] theorem State.writeDelay_stack (s : State) (b : Byte) : (s.writeDelay b).stack = s.stack := rfl
@[simp] theorem State.writeDelay_dt (s : State) (b : Byte) : (s.writeDelay b).dt = b := rfl
@[simp] theorem State.writeDelay_st (s : State) (b : Byte) : (s.writeDelay b).st = s.st := rfl
@[simp] theorem State.writeDelay_mem (s : State) (b : Byte) : (s.writeDelay b).mem = s.mem := rfl
@[simp] theorem State.writeDelay_fb (s : State) (b : Byte) : (s.writeDelay b).fb = s.fb := rfl
@[simp] theorem State.writeDelay_dirty (s : State) (b : Byte) : (s.writeDelay b).dirty = s.dirty := rfl
@[simp] theorem State.writeDelay_key (s : State) (b : Byte) : (s.writeDelay b).key = s.key := rfl
@[simp] theorem State.writeDelay_kde (s : State) (b : Byte) : (s.writeDelay b).kde = s.kde := rfl
@[simp] theorem State.writeDelay_tdiv (s : State) (b : Byte) : (s.writeDelay b).tdiv = s.tdiv := rfl
@[simp] theorem State.writeDelay_status (s : State) (b : Byte) : (s.writeDelay b).status = s.status := rfl
@[simp] theorem State.writeDelay_cfg (s : State) (b : Byte) : (s.writeDelay b).cfg = s.cfg := rfl
@[simp] theorem State.writeDelay_rnd (s : State) (b : Byte) : (s.writeDelay b).rnd = s.rnd := rfl
@[simp] theorem State.writeDelay_draws (s : State) (b : Byte) : (s.writeDelay b).draws = s.draws := rfl
@[simp] theorem State.writeDelay_agenda (s : State) (b : Byte) : (s.writeDelay b).agenda = s.agenda := rfl

@[simp] theorem State.writeSound_v (s : State) (b : Byte) : (s.writeSound b).v = s.v := rfl
@[simp] theorem State.writeSound_pc (s : State) (b : Byte) : (s.writeSound b).pc = s.pc := rfl
@[simp] theorem State.writeSound_i (s : State) (b : Byte) : (s.writeSound b).i = s.i := rfl
@[simp] theorem State.writeSound_sp (s : State) (b : Byte) : (s.writeSound b).sp = s.sp := rfl
@[simp] theorem State.writeSound_stack (s : State) (b : Byte) : (s.writeSound b).stack = s.stack := rfl
@[simp] theorem State.writeSound_dt (s : State) (b : Byte) : (s.writeSound b).dt = s.dt := rfl
@[simp] theorem State.writeSound_st (s : State) (b : Byte) : (s.writeSound b).st = b := rfl
@[simp] theorem State.writeSound_mem (s : State) (b : Byte) : (s.writeSound b).mem = s.mem := rfl
@[simp] theorem State.writeSound_fb (s : State) (b : Byte) : (s.writeSound b).fb = s.fb := rfl
@[simp] theorem State.writeSound_dirty (s : State) (b : Byte) : (s.writeSound b).dirty = s.dirty := rfl
@[simp] theorem State.writeSound_key (s : State) (b : Byte) : (s.writeSound b).key = s.key := rfl
@[simp] theorem State.writeSound_kde (s : State) (b : Byte) : (s.writeSound b).kde = s.kde := rfl
@[simp] theorem State.writeSound_tdiv (s : State) (b : Byte) : (s.writeSound b).tdiv = s.tdiv := rfl
@[simp] theorem State.writeSound_status (s : State) (b : Byte) : (s.writeSound b).status = s.status := rfl
@[simp] theorem State.writeSound_cfg (s : State) (b : Byte) : (s.writeSound b).cfg = s.cfg := rfl
@[simp] theorem State.writeSound_rnd (s : State) (b : Byte) : (s.writeSound b).rnd = s.rnd := rfl
@[simp] theorem State.writeSound_draws (s : State) (b : Byte) : (s.writeSound b).draws = s.draws := rfl
@[simp] theorem State.writeSound_agenda (s : State) (b : Byte) : (s.writeSound b).agenda = s.agenda := rfl

@[simp] theorem State.writeDisplay_v (s : State) (fb : Framebuffer) : (s.writeDisplay fb).v = s.v := rfl
@[simp] theorem State.writeDisplay_pc (s : State) (fb : Framebuffer) : (s.writeDisplay fb).pc = s.pc := rfl
@[simp] theorem State.writeDisplay_i (s : State) (fb : Framebuffer) : (s.writeDisplay fb).i = s.i := rfl
@[simp] theorem State.writeDisplay_sp (s : State) (fb : Framebuffer) : (s.writeDisplay fb).sp = s.sp := rfl
@[simp] theorem State.writeDisplay_stack (s : State) (fb : Framebuffer) : (s.writeDisplay fb).stack = s.stack := rfl
@[simp] theorem State.writeDisplay_dt (s : State) (fb : Framebuffer) : (s.writeDisplay fb).dt = s.dt := rfl
@[simp] theorem State.writeDisplay_st (s : State) (fb : Framebuffer) : (s.writeDisplay fb).st = s.st := rfl
@[simp] theorem State.writeDisplay_mem (s : State) (fb : Framebuffer) : (s.writeDisplay fb).mem = s.mem := rfl
@[simp] theorem State.writeDisplay_fb (s : State) (fb : Framebuffer) : (s.writeDisplay fb).fb = fb := rfl
@[simp] theorem State.writeDisplay_dirty (s : State) (fb : Framebuffer) : (s.writeDisplay fb).dirty = true := rfl
@[simp] theorem State.writeDisplay_key (s : State) (fb : Framebuffer) : (s.writeDisplay fb).key = s.key := rfl
@[simp] theorem State.writeDisplay_kde (s : State) (fb : Framebuffer) : (s.writeDisplay fb).kde = s.kde := rfl
@[simp] theorem State.writeDisplay_tdiv (s : State) (fb : Framebuffer) : (s.writeDisplay fb).tdiv = s.tdiv := rfl
@[simp] theorem State.writeDisplay_status (s : State) (fb : Framebuffer) : (s.writeDisplay fb).status = s.status := rfl
@[simp] theorem State.writeDisplay_cfg (s : State) (fb : Framebuffer) : (s.writeDisplay fb).cfg = s.cfg := rfl
@[simp] theorem State.writeDisplay_rnd (s : State) (fb : Framebuffer) : (s.writeDisplay fb).rnd = s.rnd := rfl
@[simp] theorem State.writeDisplay_draws (s : State) (fb : Framebuffer) : (s.writeDisplay fb).draws = s.draws := rfl
@[simp] theorem State.writeDisplay_agenda (s : State) (fb : Framebuffer) : (s.writeDisplay fb).agenda = s.agenda := rfl


end Sys2Proof.Machine
end

