-- ==== Sys2Proof/Laws/Ops.lean ====
section
/-! SUPPORT. One lemma for each shared operation that says once what it can do. -/

namespace Sys2Proof.Machine

/-! ### Registers -/

theorem State.reg_setReg (s : State) (x r : Nibble) (b : Byte) :
    (s.setReg x b).reg r = if r = x then b else s.reg r := by
  unfold State.reg State.setReg
  rw [Vector.getElem_set]
  by_cases h : r = x
  · simp [h]
  · have : ¬ x.toNat = r.toNat := fun e => h (BitVec.eq_of_toNat_eq e.symm)
    simp [h, this]

@[simp] theorem State.reg_setReg_same (s : State) (x : Nibble) (b : Byte) :
    (s.setReg x b).reg x = b := by simp [State.reg_setReg]

theorem State.reg_setReg_ne (s : State) {x r : Nibble} (b : Byte) (h : r ≠ x) :
    (s.setReg x b).reg r = s.reg r := by simp [State.reg_setReg, h]

/-- A register's value depends on the register file alone. -/
theorem State.reg_congr {s t : State} (h : t.v = s.v) (r : Nibble) : t.reg r = s.reg r := by
  simp [State.reg, h]

@[simp] theorem State.reg_advance (s : State) (r : Nibble) : s.advance.reg r = s.reg r := rfl

theorem State.reg_setFlag (s : State) (f : Bool) (r : Nibble) :
    (s.setFlag f).reg r = if r = flagReg then flagByte f else s.reg r :=
  State.reg_setReg s flagReg r (flagByte f)

/-- A result and its flag: VF holds the flag whatever X is (R140). -/
theorem State.reg_setResultFlag (s : State) (x r : Nibble) (p : Byte × Bool) :
    (s.setResultFlag x p).reg r =
      if r = flagReg then flagByte p.2 else if r = x then p.1 else s.reg r := by
  simp only [State.setResultFlag, State.reg_setFlag, State.reg_setReg]

/-! ### The address decoder -/

/-- The range check passes exactly when every byte address is below 4096. -/
theorem State.checkRange_eq (s : State) (a n : Nat) :
    s.checkRange a n =
      if n = 0 ∨ a + n ≤ Config.memorySize then .ok ()
      else .error (.addressOutOfRange (max a Config.memorySize) s.pc) := by
  induction n generalizing a with
  | zero => simp [State.checkRange]
  | succ n ih =>
    unfold State.checkRange
    by_cases h : a < Config.memorySize
    · rw [if_pos h, ih]
      have e : max (a + 1) Config.memorySize = max a Config.memorySize := by omega
      rw [e]
      by_cases h' : a + (n + 1) ≤ Config.memorySize
      · rw [if_pos (by omega), if_pos (by omega)]
      · rw [if_neg (by omega), if_neg (by omega)]
    · rw [if_neg h, if_neg (by omega)]
      have e : max a Config.memorySize = a := by omega
      rw [e]

/-- The bytes read are the bytes at the addresses, or the lowest invalid address is reported. -/
theorem State.readBytes_eq (s : State) (a n : Nat) :
    s.readBytes a n =
      if n = 0 ∨ a + n ≤ Config.memorySize then
        .ok ((List.range n).map fun k => s.byteAt (a + k))
      else .error (.addressOutOfRange (max a Config.memorySize) s.pc) := by
  induction n generalizing a with
  | zero => simp [State.readBytes]
  | succ n ih =>
    unfold State.readBytes
    by_cases h : a < Config.memorySize
    · rw [if_pos h, ih]
      by_cases h' : a + (n + 1) ≤ Config.memorySize
      · rw [if_pos (show n = 0 ∨ a + 1 + n ≤ Config.memorySize by omega), if_pos (by omega)]
        simp [List.range_succ_eq_map, Function.comp_def, Nat.add_assoc, Nat.add_comm 1]
      · have e : max (a + 1) Config.memorySize = max a Config.memorySize := by omega
        rw [if_neg (show ¬(n = 0 ∨ a + 1 + n ≤ Config.memorySize) by omega), if_neg (by omega), e]
    · have e : max a Config.memorySize = a := by omega
      rw [if_neg h, if_neg (by omega), e]

/-! ### Stores -/

/-- Putting bytes changes memory alone. -/
theorem State.putBytes_eq (s : State) (a : Nat) (bs : List Byte) :
    s.putBytes a bs = { s with mem := (s.putBytes a bs).mem } := by
  induction bs generalizing s a with
  | nil => rfl
  | cons b bs ih =>
    unfold State.putBytes
    rw [ih]
    rfl

@[simp] theorem State.putBytes_cfg (s : State) (a : Nat) (bs : List Byte) :
    (s.putBytes a bs).cfg = s.cfg := by rw [State.putBytes_eq]

@[simp] theorem State.putBytes_pc (s : State) (a : Nat) (bs : List Byte) :
    (s.putBytes a bs).pc = s.pc := by rw [State.putBytes_eq]

@[simp] theorem State.putBytes_status (s : State) (a : Nat) (bs : List Byte) :
    (s.putBytes a bs).status = s.status := by rw [State.putBytes_eq]

/-- Bytes outside those put read as before. -/
theorem State.byteAt_putBytes_outside (s : State) (a : Nat) (bs : List Byte) {b : Nat}
    (h : b < a ∨ a + bs.length ≤ b) : (s.putBytes a bs).byteAt b = s.byteAt b := by
  induction bs generalizing s a with
  | nil => rfl
  | cons c bs ih =>
    simp only [List.length_cons] at h
    unfold State.putBytes
    rw [ih _ _ (by omega), State.byteAt_setByte_ne _ _ (by omega)]

/-- Putting bytes at addresses that exist keeps the canonical form. -/
theorem State.putBytes_wellFormed (s : State) (a : Nat) (bs : List Byte)
    (hm : Memory.WellFormed s.cfg.font s.mem) (ha : a + bs.length ≤ Config.memorySize) :
    Memory.WellFormed s.cfg.font (s.putBytes a bs).mem := by
  induction bs generalizing s a with
  | nil => exact hm
  | cons c bs ih =>
    simp only [List.length_cons] at ha
    unfold State.putBytes
    exact ih (s.setByte a c) (a + 1) (Memory.write_wellFormed c hm (by omega)) (by omega)

/-- The bytes put are the bytes read. -/
theorem State.byteAt_putBytes_inside (s : State) (a : Nat) (bs : List Byte)
    (hm : Memory.WellFormed s.cfg.font s.mem) (ha : a + bs.length ≤ Config.memorySize)
    (k : Nat) (hk : k < bs.length) : (s.putBytes a bs).byteAt (a + k) = bs[k] := by
  induction bs generalizing s a k with
  | nil => simp at hk
  | cons c bs ih =>
    simp only [List.length_cons] at ha hk
    have hm' : Memory.WellFormed (s.setByte a c).cfg.font (s.setByte a c).mem :=
      Memory.write_wellFormed c hm (by omega)
    unfold State.putBytes
    cases k with
    | zero =>
      show ((s.setByte a c).putBytes (a + 1) bs).byteAt a = c
      rw [State.byteAt_putBytes_outside _ _ _ (by omega), State.byteAt_setByte_same _ _ _ hm]
    | succ k =>
      rw [show a + (k + 1) = a + 1 + k by omega, ih (s.setByte a c) (a + 1) hm' (by omega) k (by omega)]
      rfl

/-- A store puts its bytes, or faults at the lowest invalid address with nothing written. -/
theorem State.storeBytes_eq (s : State) (a : Nat) (bs : List Byte) :
    s.storeBytes a bs =
      if bs.length = 0 ∨ a + bs.length ≤ Config.memorySize then .ok (s.putBytes a bs)
      else .error (.addressOutOfRange (max a Config.memorySize) s.pc) := by
  unfold State.storeBytes
  rw [State.checkRange_eq]
  split_ifs <;> rfl

/-! ### Committing -/

/-- What `commit` answers: the state of a result, or the fault taken. -/
theorem commit_next {s t : State} {r : Except FaultRecord State} (h : commit s r = .next t) :
    r = .ok t ∨ ∃ f, r = .error f ∧ t = s.faulted f := by
  cases r with
  | ok u => exact .inl (by simpa [commit] using h)
  | error f => exact .inr ⟨f, rfl, by simpa [commit, takeFault] using h.symm⟩

/-! ### The fetch -/

/-- Bit 0 of a word as its parity. -/
theorem getLsbD_zero_eq (w : Word) : w.getLsbD 0 = decide (w.toNat % 2 = 1) := by
  show w.toNat.testBit 0 = _
  exact Nat.testBit_zero _

/-- What the checks of R101 answer, in their order. -/
theorem State.checkFetch_eq (s : State) :
    s.checkFetch =
      if s.cfg.fetchAlignFault = true ∧ s.pc.toNat % 2 = 1 then .error (.misalignedFetch s.pc)
      else if s.pc.toNat ≤ 0xFFE then .ok ()
      else .error (.addressOutOfRange (max s.pc.toNat Config.memorySize) s.pc) := by
  have hm : Config.memorySize = 4096 := rfl
  unfold State.checkFetch
  rw [State.checkRange_eq, getLsbD_zero_eq]
  by_cases h1 : s.cfg.fetchAlignFault = true ∧ s.pc.toNat % 2 = 1
  · rw [if_pos h1, if_pos (by simpa using h1)]
  · rw [if_neg h1, if_neg (by simpa using h1)]
    by_cases h2 : s.pc.toNat ≤ 0xFFE
    · rw [if_pos h2, if_pos (by omega)]
    · rw [if_neg h2, if_neg (by omega)]

/-- The fetch checks pass at an address that may be odd only where the flag allows it, and is at most
0xFFE (R101). -/
theorem State.checkFetch_ok_iff (s : State) : s.checkFetch = .ok () ↔ FetchPasses s := by
  rw [State.checkFetch_eq]
  unfold FetchPasses
  split_ifs with h1 h2
  · simp only [false_iff]
    rintro ⟨h, _⟩
    have := h h1.1
    omega
  · simp only [true_iff]
    refine ⟨fun hf => ?_, h2⟩
    by_contra hc
    exact h1 ⟨hf, by omega⟩
  · simp [h2]

/-- What a fetch that answers an instruction says. -/
theorem State.fetchInstr_ok_iff (s : State) (i : Instr) :
    s.fetchInstr = .ok i ↔ s.checkFetch = .ok () ∧ decodeWord s.fetchWord = some i := by
  unfold State.fetchInstr
  cases hc : s.checkFetch with
  | error f => simp
  | ok u =>
    cases hd : decodeWord s.fetchWord <;> simp

/-! ### Register lists (FX65) -/

theorem getElem_putRegs (v : Vector Byte 16) (k : Nat) (bs : List Byte) (j : Nat) (hj : j < 16) :
    (putRegs v k bs)[j] = if h : k ≤ j ∧ j < k + bs.length then bs[j - k]'(by omega) else v[j] := by
  induction bs generalizing v k with
  | nil =>
    unfold putRegs
    rw [dif_neg (by simp)]
  | cons b bs ih =>
    unfold putRegs
    rw [ih]
    by_cases h1 : j = k
    · subst h1
      rw [dif_neg (by omega), dif_pos (by simp)]
      rw [Vector.getElem_setIfInBounds]
      simp
    · by_cases h2 : k + 1 ≤ j ∧ j < k + 1 + bs.length
      · rw [dif_pos h2, dif_pos (by simp; omega)]
        have e : j - k = (j - (k + 1)) + 1 := by omega
        simp [e]
      · rw [dif_neg h2, dif_neg (by simp; omega), Vector.getElem_setIfInBounds, if_neg (Ne.symm h1)]

end Sys2Proof.Machine
end

