-- ==== Sys2Proof/Laws/Display.lean ====
section
/-! SUPPORT. The framebuffer cell by cell: what a plotted pixel, a drawn row and a drawn sprite do. -/

namespace Sys2Proof.Machine

/-- Every cell of the cleared framebuffer is clear. -/
@[simp] theorem Framebuffer.cell_clear (x y : Nat) : Framebuffer.clear.cell x y = false := by
  simp [Framebuffer.cell, Framebuffer.clear]

/-- A flip toggles its own cell and no other. -/
theorem Framebuffer.cell_flip (fb : Framebuffer) (x y cx cy : Nat) :
    (fb.flip x y).cell cx cy =
      if cx % 64 = x % 64 ∧ cy % 32 = y % 32 then !fb.cell cx cy else fb.cell cx cy := by
  unfold Framebuffer.flip
  simp only [Framebuffer.cell, Vector.getElem_set]
  by_cases hy : cy % 32 = y % 32
  · by_cases hx : cx % 64 = x % 64
    · simp [hx, hy]
    · simp [hx, Ne.symm hx, hy]
  · simp [hy, Ne.symm hy]

/-- Cells are named by reduced coordinates (R195). -/
theorem Framebuffer.cell_congr (fb : Framebuffer) {x y x' y' : Nat} (hx : x % 64 = x' % 64)
    (hy : y % 32 = y' % 32) : fb.cell x y = fb.cell x' y' := by
  simp [Framebuffer.cell, hx, hy]

/-- Two framebuffers with the same cells are equal. -/
theorem Framebuffer.ext_cell {fb gb : Framebuffer}
    (h : ∀ x y, x < 64 → y < 32 → fb.cell x y = gb.cell x y) : fb = gb := by
  apply Vector.ext
  intro y hy
  apply Vector.ext
  intro x hx
  have := h x y hx hy
  simpa [Framebuffer.cell, Nat.mod_eq_of_lt hx, Nat.mod_eq_of_lt hy] using this

/-- The first `m` columns of a sprite row, which `drawRow` draws. -/
theorem drawRow_eq (d : Framebuffer × Bool) (x0 y : Nat) (row : Byte) (m : Nat) (hm : m ≤ 8) :
    (∀ cx cy, (((List.range m).foldl (fun d c => if row.getLsbD (7 - c) then plot d (x0 + c) y else d) d).1.cell cx cy
        = true) ↔
      ((d.1.cell cx cy = true) ↔
        ¬(cy % 32 = y % 32 ∧ ∃ c < m, (x0 + c) % 64 = cx % 64 ∧ row.getLsbD (7 - c) = true))) ∧
    (((List.range m).foldl (fun d c => if row.getLsbD (7 - c) then plot d (x0 + c) y else d) d).2 = true ↔
      d.2 = true ∨ ∃ c < m, row.getLsbD (7 - c) = true ∧ d.1.cell (x0 + c) y = true) := by
  induction m with
  | zero => simp
  | succ m ih =>
    obtain ⟨ih1, ih2⟩ := ih (by omega)
    simp only [List.range_succ, List.foldl_append, List.foldl_cons, List.foldl_nil]
    generalize (List.range m).foldl (fun d c => if row.getLsbD (7 - c) then plot d (x0 + c) y else d) d = e at ih1 ih2
    have hsplit : ∀ (P : Nat → Prop), (∃ c < m + 1, P c) ↔ (∃ c < m, P c) ∨ P m := by
      intro P
      constructor
      · rintro ⟨c, hc, hP⟩
        rcases Nat.lt_succ_iff_lt_or_eq.1 hc with h | rfl
        · exact .inl ⟨c, h, hP⟩
        · exact .inr hP
      · rintro (⟨c, hc, hP⟩ | hP)
        · exact ⟨c, by omega, hP⟩
        · exact ⟨m, by omega, hP⟩
    simp only [hsplit]
    by_cases hb : row.getLsbD (7 - m) = true
    · rw [if_pos hb]
      constructor
      · intro cx cy
        simp only [plot, Framebuffer.cell_flip, hb, and_true]
        by_cases hc : cx % 64 = (x0 + m) % 64 ∧ cy % 32 = y % 32
        · rw [if_pos hc]
          have hno : ¬∃ c < m, (x0 + c) % 64 = cx % 64 ∧ row.getLsbD (7 - c) = true := by
            rintro ⟨c, hc', h, _⟩
            omega
          have hk := ih1 cx cy
          simp only [hno, and_false, not_false_eq_true, iff_true] at hk
          simp only [Bool.not_eq_true', ← Bool.not_eq_true, hk, hc.2, hno, hc.1.symm, or_true, and_self,
            not_true_eq_false, iff_false]
        · rw [if_neg hc, ih1 cx cy]
          have : ¬((x0 + m) % 64 = cx % 64) ∨ ¬(cy % 32 = y % 32) := by
            by_contra hh
            push Not at hh
            exact hc ⟨hh.1.symm, hh.2⟩
          rcases this with h | h <;> simp [h]
      · simp only [plot, Bool.or_eq_true, ih2, hb, true_and]
        have hno : ¬∃ c < m, (x0 + c) % 64 = (x0 + m) % 64 ∧ row.getLsbD (7 - c) = true := by
          rintro ⟨c, hc', h, _⟩
          omega
        have hk := ih1 (x0 + m) y
        simp only [hno, and_false, not_false_eq_true, iff_true] at hk
        rw [hk, or_assoc]
    · rw [if_neg hb]
      simp only [hb, Bool.false_eq_true, false_and, and_false, or_false]
      exact ⟨ih1, ih2⟩

/-- A drawn row toggles exactly the cells under its 1 bits. -/
theorem cell_drawRow (d : Framebuffer × Bool) (x0 y : Nat) (row : Byte) (cx cy : Nat) :
    (drawRow d x0 y row).1.cell cx cy = true ↔
      ((d.1.cell cx cy = true) ↔
        ¬(cy % 32 = y % 32 ∧ ∃ c < 8, (x0 + c) % 64 = cx % 64 ∧ row.getLsbD (7 - c) = true)) :=
  (drawRow_eq d x0 y row 8 (le_refl 8)).1 cx cy

/-- A drawn row collides exactly where a 1 bit meets a set cell. -/
theorem hit_drawRow (d : Framebuffer × Bool) (x0 y : Nat) (row : Byte) :
    (drawRow d x0 y row).2 = true ↔
      d.2 = true ∨ ∃ c < 8, row.getLsbD (7 - c) = true ∧ d.1.cell (x0 + c) y = true :=
  (drawRow_eq d x0 y row 8 (le_refl 8)).2

/-- The sprite's 1 bits reach the cell. -/
def SpriteCovers (x0 y : Nat) (rows : List Byte) (cx cy : Nat) : Prop :=
  ∃ r c, ∃ h : r < rows.length, c < 8 ∧ (x0 + c) % 64 = cx % 64 ∧ (y + r) % 32 = cy % 32 ∧
    rows[r].getLsbD (7 - c) = true

theorem spriteCovers_cons (x0 y : Nat) (row : Byte) (rows : List Byte) (cx cy : Nat) :
    SpriteCovers x0 y (row :: rows) cx cy ↔
      (cy % 32 = y % 32 ∧ ∃ c < 8, (x0 + c) % 64 = cx % 64 ∧ row.getLsbD (7 - c) = true) ∨
        SpriteCovers x0 (y + 1) rows cx cy := by
  constructor
  · rintro ⟨r, c, h, hc, hx, hy, hb⟩
    cases r with
    | zero => exact .inl ⟨hy.symm, c, hc, hx, hb⟩
    | succ r => exact .inr ⟨r, c, by simpa using h, hc, hx, by rw [← hy]; congr 1; omega, hb⟩
  · rintro (⟨hy, c, hc, hx, hb⟩ | ⟨r, c, h, hc, hx, hy, hb⟩)
    · exact ⟨0, c, by simp, hc, hx, hy.symm, hb⟩
    · exact ⟨r + 1, c, by simpa using h, hc, hx, by rw [← hy]; congr 1; omega, hb⟩

/-- A sprite of at most 32 rows toggles exactly the cells its 1 bits reach, and collides exactly where one
of them was set before the draw: no cell is touched twice (R193, R194). -/
theorem drawRows_eq (d : Framebuffer × Bool) (x0 y : Nat) (rows : List Byte) (hr : rows.length ≤ 32) :
    (∀ cx cy, (drawRows d x0 y rows).1.cell cx cy = true ↔
      ((d.1.cell cx cy = true) ↔ ¬SpriteCovers x0 y rows cx cy)) ∧
    ((drawRows d x0 y rows).2 = true ↔
      d.2 = true ∨ ∃ cx cy, SpriteCovers x0 y rows cx cy ∧ d.1.cell cx cy = true) := by
  induction rows generalizing d y with
  | nil => simp [drawRows, SpriteCovers]
  | cons row rows ih =>
    simp only [List.length_cons] at hr
    obtain ⟨ih1, ih2⟩ := ih (drawRow d x0 y row) (y + 1) (by omega)
    have hapart : ∀ cx cy, cy % 32 = y % 32 → ¬SpriteCovers x0 (y + 1) rows cx cy := by
      rintro cx cy hy ⟨r, c, h, _, _, hy', _⟩
      omega
    unfold drawRows
    simp only [spriteCovers_cons]
    constructor
    · intro cx cy
      rw [ih1, cell_drawRow]
      by_cases h1 : cy % 32 = y % 32
      · have := hapart cx cy h1
        simp only [this, not_false_eq_true, iff_true, or_false]
      · simp only [h1, false_and, not_false_eq_true, iff_true, false_or]
    · rw [ih2, hit_drawRow]
      constructor
      · rintro ((h | ⟨c, hc, hb, hs⟩) | ⟨cx, cy, hcov, hs⟩)
        · exact .inl h
        · exact .inr ⟨x0 + c, y, .inl ⟨rfl, c, hc, rfl, hb⟩, hs⟩
        · refine .inr ⟨cx, cy, .inr hcov, ?_⟩
          have h1 : ¬cy % 32 = y % 32 := fun h => hapart cx cy h hcov
          rw [cell_drawRow] at hs
          simpa [h1] using hs
      · rintro (h | ⟨cx, cy, (⟨hy, c, hc, hx, hb⟩ | hcov), hs⟩)
        · exact .inl (.inl h)
        · refine .inl (.inr ⟨c, hc, hb, ?_⟩)
          rw [Framebuffer.cell_congr d.1 hx hy.symm]
          exact hs
        · refine .inr ⟨cx, cy, hcov, ?_⟩
          have h1 : ¬cy % 32 = y % 32 := fun h => hapart cx cy h hcov
          rw [cell_drawRow]
          simpa [h1] using hs

end Sys2Proof.Machine
end

