-- ==== Sys2Proof/Laws/Exec.lean ====
section
/-! SUPPORT. What every instruction does, said once: it answers a next state; that state is a fault taken
with nothing else changed, or it keeps STATUS, the keys, TDIV and the model's own fields. -/

namespace Sys2Proof.Machine

/-- The elements no instruction writes (R37). -/
structure Kept (s t : State) : Prop where
  key : t.key = s.key
  kde : t.kde = s.kde
  tdiv : t.tdiv = s.tdiv
  status : t.status = s.status
  cfg : t.cfg = s.cfg
  rnd : t.rnd = s.rnd
  draws : t.draws = s.draws
  agenda : t.agenda = s.agenda

/-- A result computed from `s` either keeps those elements or is a fault. -/
def KeptOrFault (s : State) (r : Except FaultRecord State) : Prop := ∀ t, r = .ok t → Kept s t

theorem kept_of_next {s t : State} (h : Kept s t) :
    ∃ u, (Host.Outcome.next t : Host.Outcome State Fault Refusal) = .next u ∧
      ((∃ f, u = s.faulted f) ∨ Kept s u) := ⟨t, rfl, .inr h⟩

theorem kept_of_commit {s : State} {r : Except FaultRecord State} (h : KeptOrFault s r) :
    ∃ u, commit s r = .next u ∧ ((∃ f, u = s.faulted f) ∨ Kept s u) := by
  cases hr : r with
  | ok t => exact ⟨t, rfl, .inr (h t hr)⟩
  | error f => exact ⟨_, rfl, .inl ⟨f, rfl⟩⟩

/-- Pop: PC and SP change, or the stack is empty. -/
theorem State.popToPc_cases {s t : State} (h : s.popToPc = .ok t) :
    ∃ k, s.sp = k + 1 ∧ t = { s with sp := k, pc := s.stack.getD k 0 } := by
  unfold State.popToPc at h
  split at h
  · cases h
  · rename_i k hk
    exact ⟨k, hk, by cases h; rfl⟩

/-- Push: STACK and SP change, or the stack is full. -/
theorem State.push_cases {s t : State} {ret : Word} (h : s.push ret = .ok t) :
    s.sp ≠ s.cfg.stackDepth ∧ t = { s with stack := s.stack.set s.sp ret, sp := s.sp + 1 } := by
  unfold State.push at h
  split_ifs at h with hs
  exact ⟨hs, by cases h; rfl⟩

/-- A write of I: the exact value, at most 0xFFFF. -/
theorem State.setIndex_cases {s t : State} {n : Nat} (h : s.setIndex n = .ok t) :
    n ≤ 0xFFFF ∧ t = s.writeIndex (BitVec.ofNat 16 n) := by
  unfold State.setIndex at h
  split_ifs at h with hn
  exact ⟨by omega, by cases h; rfl⟩

/-- A store: the bytes put, all within memory. -/
theorem State.storeBytes_cases {s t : State} {a : Nat} {bs : List Byte} (h : s.storeBytes a bs = .ok t) :
    (bs.length = 0 ∨ a + bs.length ≤ Config.memorySize) ∧ t = s.putBytes a bs := by
  rw [State.storeBytes_eq] at h
  split_ifs at h with hs
  exact ⟨hs, by cases h; rfl⟩

/-- Every instruction answers a next state: a fault taken with STATUS alone changed (R242), or one in which
STATUS, KEY, KDE, TDIV and the model's own fields are kept (R37). -/
theorem exec_cases (i : Instr) (s : State) :
    ∃ u, exec i s = .next u ∧ ((∃ f, u = s.faulted f) ∨ Kept s u) := by
  cases i
  case ret =>
    refine kept_of_commit fun t ht => ?_
    obtain ⟨k, _, rfl⟩ := State.popToPc_cases ht
    constructor <;> rfl
  case call nnn =>
    refine kept_of_commit fun t ht => ?_
    cases hp : s.push (s.pc + 2) with
    | error f => rw [hp] at ht; cases ht
    | ok w =>
      rw [hp] at ht
      obtain ⟨_, rfl⟩ := State.push_cases hp
      cases ht
      constructor <;> rfl
  case addIndex x =>
    refine kept_of_commit fun t ht => ?_
    cases hp : s.setIndex (s.i.toNat + (s.reg x).toNat) with
    | error f => rw [hp] at ht; cases ht
    | ok w =>
      rw [hp] at ht
      obtain ⟨_, rfl⟩ := State.setIndex_cases hp
      cases ht
      constructor <;> rfl
  case storeBcd x =>
    refine kept_of_commit fun t ht => ?_
    cases hp : s.storeBytes s.indexAddr (bcdDigits (s.reg x)) with
    | error f => rw [hp] at ht; cases ht
    | ok w =>
      rw [hp] at ht
      obtain ⟨_, rfl⟩ := State.storeBytes_cases hp
      cases ht
      rw [State.putBytes_eq]
      constructor <;> rfl
  case storeRegs x =>
    refine kept_of_commit fun t ht => ?_
    cases hp : s.storeBytes s.indexAddr (s.regsUpTo x) with
    | error f => rw [hp] at ht; cases ht
    | ok w =>
      rw [hp] at ht
      obtain ⟨_, rfl⟩ := State.storeBytes_cases hp
      cases ht
      rw [State.putBytes_eq]
      constructor <;> rfl
  case loadRegs x =>
    refine kept_of_commit fun t ht => ?_
    cases hp : s.readBytes s.indexAddr (regCount x) with
    | error f => rw [hp] at ht; cases ht
    | ok bs =>
      rw [hp] at ht
      cases ht
      constructor <;> rfl
  case drw x y n =>
    refine kept_of_commit fun t ht => ?_
    cases hp : s.readBytes s.indexAddr n.toNat with
    | error f => rw [hp] at ht; cases ht
    | ok bs =>
      rw [hp] at ht
      cases ht
      constructor <;> rfl
  case ldKey x =>
    show ∃ u, execLdKey x s = .next u ∧ _
    unfold execLdKey
    split <;> exact kept_of_next (by constructor <;> rfl)
  all_goals exact kept_of_next (by constructor <;> rfl)

/-- The end of a cycle touches DT, ST, TDIV and KDE alone (R106). -/
theorem State.endOfCycle_eq (s : State) :
    s.endOfCycle = { s with dt := s.endOfCycle.dt, st := s.endOfCycle.st, tdiv := s.endOfCycle.tdiv, kde := none } :=
  rfl

/-- What the body of a cycle can answer: a fault taken, or an instruction's effect and the end of the
cycle (R100). -/
theorem runCycle_cases {s t : State} (hr : s.status = .running) (h : runCycle s = .next t) :
    (∃ f, t = s.faulted f) ∨
    (∃ i u, s.fetchInstr = .ok i ∧ exec i s = .next u ∧ Kept s u ∧ t = u.endOfCycle) := by
  unfold runCycle at h
  cases hf : s.fetchInstr with
  | error f =>
    rw [hf] at h
    exact .inl ⟨f, by simpa [takeFault] using h.symm⟩
  | ok i =>
    rw [hf] at h
    obtain ⟨u, hu, hcase⟩ := exec_cases i s
    dsimp only at h
    rw [hu] at h
    rcases hcase with ⟨f, rfl⟩ | hk
    · exact .inl ⟨f, by simpa [finishCycle] using h.symm⟩
    · refine .inr ⟨i, u, rfl, hu, hk, ?_⟩
      have hs : u.status = .running := hk.status.trans hr
      simp only [finishCycle, hs] at h
      cases h
      rfl

/-- A cycle answers a next state only while Running, and then it is the body's (R107). -/
theorem cycle_next {rnd : Byte} {s t : State} (h : cycle rnd s = .next t) :
    s.status = .running ∧ runCycle (s.latchRnd rnd) = .next t := by
  unfold cycle at h
  split at h
  · exact ⟨by assumption, h⟩
  · cases h
  · cases h

/-- A step is an action of the host: the agenda's first, or a cycle with a free random byte. -/
theorem step_cases {s t : State} (h : step s = .next t) :
    (s.agenda = [] ∧ cycle (Config.randomByte s.draws) s.countDraw = .next t) ∨
    (∃ a rest, s.agenda = a :: rest ∧ act a (s.setAgenda rest) = .next t) := by
  unfold step at h
  split at h
  · exact .inl ⟨by assumption, h⟩
  · exact .inr ⟨_, _, by assumption, h⟩

/-- An action is a cycle, or an event that leaves everything but DT, ST, DIRTY, KEY, KDE and STATUS
alone (R245, R261). -/
theorem act_cases {a : HostAction} {s t : State} (h : act a s = .next t) :
    (∃ rnd, a = .cycle rnd ∧ cycle rnd s = .next t) ∨
    (isCycle a = false ∧ t = { s with dt := t.dt, st := t.st, dirty := t.dirty, key := t.key, kde := t.kde, status := t.status }) := by
  cases a
  case cycle rnd => exact .inl ⟨rnd, rfl, h⟩
  case tick =>
    refine .inr ⟨rfl, ?_⟩
    simp only [act, State.hostTick] at h
    split at h
    · cases h; rfl
    · cases h
  all_goals
    refine .inr ⟨rfl, ?_⟩
    simp only [act] at h
    cases h
    rfl

end Sys2Proof.Machine
end

