-- ==== Sys2Proof/Laws/Operands.lean ====
section
/-! SUPPORT. What the operand forms, the flag computations and the operations that can fault answer, each
said once. -/

namespace Sys2Proof.Machine

/-! ### Flags -/

theorem flagByte_toNat (f : Bool) : (flagByte f).toNat = if f then 1 else 0 := by cases f <;> rfl

theorem subNotBorrow_toNat (a b : Byte) :
    (subNotBorrow a b).1.toNat = (a.toNat + 256 - b.toNat) % 256 := by
  have := a.isLt
  have := b.isLt
  simp only [subNotBorrow, BitVec.toNat_ofInt]
  omega

/-- A tick takes one off, and nothing off 0 (R250). -/
theorem tickDown_toNat (b : Byte) : (tickDown b).toNat = b.toNat - 1 := by
  unfold tickDown
  split_ifs with h
  · simp [h]
  · have : b.toNat ≠ 0 := fun e => h (BitVec.eq_of_toNat_eq e)
    have := b.isLt
    simp
    omega

/-! ### Operands -/

/-- A skip passes over one word: the advance and 2 more. -/
theorem word_add_two_two (p : Word) : p + 2#16 + 2#16 = p + 4#16 := by
  apply BitVec.eq_of_toNat_eq
  simp

@[simp] theorem State.regsUpTo_length (s : State) (x : Nibble) : (s.regsUpTo x).length = x.toNat + 1 := by
  have := x.isLt
  simp [State.regsUpTo, regCount]
  omega

theorem State.getElem_regsUpTo (s : State) (x r : Nibble) (h : r.toNat ≤ x.toNat) :
    (s.regsUpTo x)[r.toNat]'(by rw [State.regsUpTo_length]; omega) = s.reg r := by
  simp [State.regsUpTo, State.reg]

@[simp] theorem bcdDigits_length (b : Byte) : (bcdDigits b).length = 3 := rfl

/-- I after FX55 and FX65 is exact in 16 bits once the accesses are in range (log 32). -/
theorem State.advancedIndex_toNat (s : State) (x : Nibble)
    (h : s.indexAddr + (x.toNat + 1) ≤ Config.memorySize) :
    (s.advancedIndex x).toNat = if s.cfg.lsAdvanceI then s.i.toNat + x.toNat + 1 else s.i.toNat := by
  have hm : Config.memorySize = 4096 := rfl
  unfold State.indexAddr at h
  cases hf : s.cfg.lsAdvanceI <;> simp [State.advancedIndex, hf, regCount]
  omega

/-- The key comparison of EX9E and EXA1 is on all 8 bits (R210). -/
theorem State.keyMatches_iff (s : State) (x : Nibble) :
    s.keyMatches x = true ↔ ∃ k, s.key = some k ∧ k.toNat = (s.reg x).toNat := by
  unfold State.keyMatches
  cases h : s.key with
  | none => simp
  | some k =>
    simp only [beq_iff_eq, Option.some.injEq, byteOfKey]
    constructor
    · intro e
      exact ⟨k, rfl, by rw [← e]; simp; omega⟩
    · rintro ⟨k', rfl, e⟩
      apply BitVec.eq_of_toNat_eq
      rw [← e]
      simp
      omega

/-! ### Registers after the operations that meanings end in -/

@[simp] theorem State.reg_jump (s : State) (w : Word) (r : Nibble) : (s.jump w).reg r = s.reg r := rfl
@[simp] theorem State.reg_skipIf (s : State) (c : Bool) (r : Nibble) : (s.skipIf c).reg r = s.reg r := rfl
@[simp] theorem State.reg_writeIndex (s : State) (w : Word) (r : Nibble) : (s.writeIndex w).reg r = s.reg r := rfl
@[simp] theorem State.reg_writeDelay (s : State) (b : Byte) (r : Nibble) : (s.writeDelay b).reg r = s.reg r := rfl
@[simp] theorem State.reg_writeSound (s : State) (b : Byte) (r : Nibble) : (s.writeSound b).reg r = s.reg r := rfl
@[simp] theorem State.reg_writeDisplay (s : State) (fb : Framebuffer) (r : Nibble) :
    (s.writeDisplay fb).reg r = s.reg r := rfl
@[simp] theorem State.reg_faulted (s : State) (f : FaultRecord) (r : Nibble) : (s.faulted f).reg r = s.reg r := rfl
@[simp] theorem State.reg_latchRnd (s : State) (b : Byte) (r : Nibble) : (s.latchRnd b).reg r = s.reg r := rfl
@[simp] theorem State.reg_putBytes (s : State) (a : Nat) (bs : List Byte) (r : Nibble) :
    (s.putBytes a bs).reg r = s.reg r := by
  rw [State.putBytes_eq]
  rfl

/-- FX1E writes VF only when `P_FX1E_VF`, and no other register (R173). -/
theorem State.reg_setIndexFlag (s : State) (f : Bool) (r : Nibble) :
    (s.setIndexFlag f).reg r =
      if s.cfg.fx1eVf = true ∧ r = flagReg then flagByte f else s.reg r := by
  cases h : s.cfg.fx1eVf
  · exact State.reg_congr (by simp [State.setIndexFlag, h]) r
  · rw [State.reg_congr (s := s.setFlag f) (by simp [State.setIndexFlag, h]) r, State.reg_setFlag]
    simp

/-- A register list reaches its own registers and no other (R177). -/
theorem State.reg_writeRegs_putRegs (s : State) (bs : List Byte) (r : Nibble) (h : bs.length ≤ r.toNat) :
    (s.writeRegs (putRegs s.v 0 bs)).reg r = s.reg r := by
  show (putRegs s.v 0 bs)[r.toNat] = s.v[r.toNat]
  rw [getElem_putRegs _ _ _ _ r.isLt, dif_neg (by omega)]

/-! ### The end of a cycle under InstrCount -/

/-- TDIV counts the cycle, or starts again where it is full, and DT falls by one there (R106, R251). -/
theorem State.endOfCycle_instrCount (s : State) (h : s.cfg.timerPolicy = .instrCount) :
    s.endOfCycle.tdiv = (if s.tdiv + 1 = s.cfg.timerDiv then 0 else s.tdiv + 1) ∧
    s.endOfCycle.dt.toNat = (if s.tdiv + 1 = s.cfg.timerDiv then s.dt.toNat - 1 else s.dt.toNat) := by
  have hc : s.countsInstrs = true := by simp [State.countsInstrs, h]
  by_cases hf : s.tdiv + 1 = s.cfg.timerDiv
  · simp [State.endOfCycle, State.instrCountTick, hc, State.dividerFull, hf, tickDown_toNat]
  · simp [State.endOfCycle, State.instrCountTick, hc, State.dividerFull, hf]

/-! ### Operations that can fault -/

theorem State.push_eq (s : State) (ret : Word) :
    s.push ret = if s.sp = s.cfg.stackDepth then .error (.stackOverflow s.pc)
      else .ok { s with stack := s.stack.set s.sp ret, sp := s.sp + 1 } := rfl

theorem State.popToPc_zero (s : State) (h : s.sp = 0) : s.popToPc = .error (.stackUnderflow s.pc) := by
  unfold State.popToPc
  rw [h]

theorem State.popToPc_succ (s : State) (k : Nat) (h : s.sp = k + 1) :
    s.popToPc = .ok { s with sp := k, pc := s.stack.getD k 0 } := by
  unfold State.popToPc
  rw [h]

theorem State.setIndex_eq (s : State) (n : Nat) :
    s.setIndex n = if 0xFFFF < n then .error (.indexOverflow s.pc)
      else .ok (s.writeIndex (BitVec.ofNat 16 n)) := rfl

/-! ### What the fetch looks at -/

/-- The fetch looks at PC, the configuration and memory only. -/
theorem State.fetchInstr_congr {s t : State} (hp : t.pc = s.pc) (hc : t.cfg = s.cfg) (hm : t.mem = s.mem) :
    t.fetchInstr = s.fetchInstr := by
  have hb : ∀ a, t.byteAt a = s.byteAt a := fun a => State.byteAt_congr hm hc a
  simp [State.fetchInstr, State.checkFetch_eq, State.fetchWord, hp, hc, hb]

end Sys2Proof.Machine
end

