-- ==== Sys2Proof/Laws/PerInstr.lean ====
section
/-! SUPPORT. Statements about every instruction as syntax, one lemma per constructor. -/

namespace Sys2Proof

theorem fieldY_packXNN (c x : Nibble) (nn : Byte) : fieldY (packXNN c x nn) = nn.extractLsb' 4 4 := by
  have := nn.isLt
  apply BitVec.eq_of_toNat_eq
  rw [fieldY_toNat, packXNN_toNat]
  simp [Nat.shiftRight_eq_div_pow]; omega

theorem fieldN_packXNN (c x : Nibble) (nn : Byte) : fieldN (packXNN c x nn) = nn.extractLsb' 0 4 := by
  apply BitVec.eq_of_toNat_eq
  rw [fieldN_toNat, packXNN_toNat]
  simp; omega

/-- Rows with mask 0xF000. -/
theorem meetsRow_class (w : Word) (c : Nibble) (h : fieldN1 w = c) :
    meetsRow w (packXYN 0xF 0x0 0x0 0x0, packXYN c 0x0 0x0 0x0) = true := by
  subst h
  simp [meetsRow_iff]

/-- Rows with mask 0xF00F. -/
theorem meetsRow_classN (w : Word) (c n : Nibble) (h : fieldN1 w = c) (hn : fieldN w = n) :
    meetsRow w (packXYN 0xF 0x0 0x0 0xF, packXYN c 0x0 0x0 n) = true := by
  subst h hn
  simp [meetsRow_iff]

/-- Rows with mask 0xF0FF. -/
theorem meetsRow_classNN (w : Word) (c y n : Nibble) (h : fieldN1 w = c) (hy : fieldY w = y)
    (hn : fieldN w = n) :
    meetsRow w (packXYN 0xF 0x0 0xF 0xF, packXYN c 0x0 y n) = true := by
  subst h hy hn
  simp [meetsRow_iff]

namespace Laws.EncodesRow

/-- The instruction's word meets the instruction's own row of R74. -/
def Statement (i : Instr) : Prop :=
  ∃ row, opcodeRows[rowIndex i]? = some row ∧ meetsRow (encode i) row = true

theorem cls : Statement .cls := ⟨_, rfl, by decide⟩
theorem ret : Statement .ret := ⟨_, rfl, by decide⟩
theorem jp (nnn : Addr12) : Statement (.jp nnn) :=
  ⟨_, rfl, meetsRow_class (packNNN 0x1 nnn) 0x1 (by simp)⟩
theorem call (nnn : Addr12) : Statement (.call nnn) :=
  ⟨_, rfl, meetsRow_class (packNNN 0x2 nnn) 0x2 (by simp)⟩
theorem seImm (x : Nibble) (nn : Byte) : Statement (.seImm x nn) :=
  ⟨_, rfl, meetsRow_class (packXNN 0x3 x nn) 0x3 (by simp)⟩
theorem sneImm (x : Nibble) (nn : Byte) : Statement (.sneImm x nn) :=
  ⟨_, rfl, meetsRow_class (packXNN 0x4 x nn) 0x4 (by simp)⟩
theorem seReg (x y : Nibble) : Statement (.seReg x y) :=
  ⟨_, rfl, meetsRow_classN (packXYN 0x5 x y 0x0) 0x5 0x0 (by simp) (by simp)⟩
theorem ldImm (x : Nibble) (nn : Byte) : Statement (.ldImm x nn) :=
  ⟨_, rfl, meetsRow_class (packXNN 0x6 x nn) 0x6 (by simp)⟩
theorem addImm (x : Nibble) (nn : Byte) : Statement (.addImm x nn) :=
  ⟨_, rfl, meetsRow_class (packXNN 0x7 x nn) 0x7 (by simp)⟩
theorem ldReg (x y : Nibble) : Statement (.ldReg x y) :=
  ⟨_, rfl, meetsRow_classN (packXYN 0x8 x y 0x0) 0x8 0x0 (by simp) (by simp)⟩
theorem orReg (x y : Nibble) : Statement (.orReg x y) :=
  ⟨_, rfl, meetsRow_classN (packXYN 0x8 x y 0x1) 0x8 0x1 (by simp) (by simp)⟩
theorem andReg (x y : Nibble) : Statement (.andReg x y) :=
  ⟨_, rfl, meetsRow_classN (packXYN 0x8 x y 0x2) 0x8 0x2 (by simp) (by simp)⟩
theorem xorReg (x y : Nibble) : Statement (.xorReg x y) :=
  ⟨_, rfl, meetsRow_classN (packXYN 0x8 x y 0x3) 0x8 0x3 (by simp) (by simp)⟩
theorem addReg (x y : Nibble) : Statement (.addReg x y) :=
  ⟨_, rfl, meetsRow_classN (packXYN 0x8 x y 0x4) 0x8 0x4 (by simp) (by simp)⟩
theorem subReg (x y : Nibble) : Statement (.subReg x y) :=
  ⟨_, rfl, meetsRow_classN (packXYN 0x8 x y 0x5) 0x8 0x5 (by simp) (by simp)⟩
theorem shr (x y : Nibble) : Statement (.shr x y) :=
  ⟨_, rfl, meetsRow_classN (packXYN 0x8 x y 0x6) 0x8 0x6 (by simp) (by simp)⟩
theorem subnReg (x y : Nibble) : Statement (.subnReg x y) :=
  ⟨_, rfl, meetsRow_classN (packXYN 0x8 x y 0x7) 0x8 0x7 (by simp) (by simp)⟩
theorem shl (x y : Nibble) : Statement (.shl x y) :=
  ⟨_, rfl, meetsRow_classN (packXYN 0x8 x y 0xE) 0x8 0xE (by simp) (by simp)⟩
theorem sneReg (x y : Nibble) : Statement (.sneReg x y) :=
  ⟨_, rfl, meetsRow_classN (packXYN 0x9 x y 0x0) 0x9 0x0 (by simp) (by simp)⟩
theorem ldIndex (nnn : Addr12) : Statement (.ldIndex nnn) :=
  ⟨_, rfl, meetsRow_class (packNNN 0xA nnn) 0xA (by simp)⟩
theorem jpOffset (nnn : Addr12) : Statement (.jpOffset nnn) :=
  ⟨_, rfl, meetsRow_class (packNNN 0xB nnn) 0xB (by simp)⟩
theorem rnd (x : Nibble) (nn : Byte) : Statement (.rnd x nn) :=
  ⟨_, rfl, meetsRow_class (packXNN 0xC x nn) 0xC (by simp)⟩
theorem drw (x y n : Nibble) : Statement (.drw x y n) :=
  ⟨_, rfl, meetsRow_class (packXYN 0xD x y n) 0xD (by simp)⟩
theorem skp (x : Nibble) : Statement (.skp x) :=
  ⟨_, rfl, meetsRow_classNN (packXNN 0xE x 0x9E) 0xE 0x9 0xE (by simp) (by simp [fieldY_packXNN]) (by simp [fieldN_packXNN])⟩
theorem sknp (x : Nibble) : Statement (.sknp x) :=
  ⟨_, rfl, meetsRow_classNN (packXNN 0xE x 0xA1) 0xE 0xA 0x1 (by simp) (by simp [fieldY_packXNN]) (by simp [fieldN_packXNN])⟩
theorem ldFromDelay (x : Nibble) : Statement (.ldFromDelay x) :=
  ⟨_, rfl, meetsRow_classNN (packXNN 0xF x 0x07) 0xF 0x0 0x7 (by simp) (by simp [fieldY_packXNN]) (by simp [fieldN_packXNN])⟩
theorem ldKey (x : Nibble) : Statement (.ldKey x) :=
  ⟨_, rfl, meetsRow_classNN (packXNN 0xF x 0x0A) 0xF 0x0 0xA (by simp) (by simp [fieldY_packXNN]) (by simp [fieldN_packXNN])⟩
theorem ldDelay (x : Nibble) : Statement (.ldDelay x) :=
  ⟨_, rfl, meetsRow_classNN (packXNN 0xF x 0x15) 0xF 0x1 0x5 (by simp) (by simp [fieldY_packXNN]) (by simp [fieldN_packXNN])⟩
theorem ldSound (x : Nibble) : Statement (.ldSound x) :=
  ⟨_, rfl, meetsRow_classNN (packXNN 0xF x 0x18) 0xF 0x1 0x8 (by simp) (by simp [fieldY_packXNN]) (by simp [fieldN_packXNN])⟩
theorem addIndex (x : Nibble) : Statement (.addIndex x) :=
  ⟨_, rfl, meetsRow_classNN (packXNN 0xF x 0x1E) 0xF 0x1 0xE (by simp) (by simp [fieldY_packXNN]) (by simp [fieldN_packXNN])⟩
theorem ldGlyph (x : Nibble) : Statement (.ldGlyph x) :=
  ⟨_, rfl, meetsRow_classNN (packXNN 0xF x 0x29) 0xF 0x2 0x9 (by simp) (by simp [fieldY_packXNN]) (by simp [fieldN_packXNN])⟩
theorem storeBcd (x : Nibble) : Statement (.storeBcd x) :=
  ⟨_, rfl, meetsRow_classNN (packXNN 0xF x 0x33) 0xF 0x3 0x3 (by simp) (by simp [fieldY_packXNN]) (by simp [fieldN_packXNN])⟩
theorem storeRegs (x : Nibble) : Statement (.storeRegs x) :=
  ⟨_, rfl, meetsRow_classNN (packXNN 0xF x 0x55) 0xF 0x5 0x5 (by simp) (by simp [fieldY_packXNN]) (by simp [fieldN_packXNN])⟩
theorem loadRegs (x : Nibble) : Statement (.loadRegs x) :=
  ⟨_, rfl, meetsRow_classNN (packXNN 0xF x 0x65) 0xF 0x6 0x5 (by simp) (by simp [fieldY_packXNN]) (by simp [fieldN_packXNN])⟩

end Laws.EncodesRow

end Sys2Proof
end

