-- ==== Sys2Proof/Tests/Slice0.lean ====
section
/-! SUPPORT. Tests: ill-formed inputs refused, every constructor's decoding shown by a word written out from
R74, one or two single steps an instruction with the results of spec/95_test_vectors.md and of the rules'
own examples, and a witness for the hypotheses of each statement. -/

namespace Sys2Proof.Tests

open Sys2Proof Sys2Proof.Machine

/-! ### Helpers -/

/-- The configuration of spec/95 with the modern shift, the repository's BNNN and FX55, no VF of FX1E, and
the WallClock policy. -/
def modern : Config where
  shiftUsesVy := false
  jumpVx := false
  lsAdvanceI := true
  fx1eVf := false
  timerPolicy := .wallClock
  timerDiv := 1
  stackDepth := 16
  fetchAlignFault := true
  font := Config.defaultFont

/-- The other value of every quirk flag, and InstrCount with a divider of 3. -/
def legacy : Config where
  shiftUsesVy := true
  jumpVx := true
  lsAdvanceI := false
  fx1eVf := true
  timerPolicy := .instrCount
  timerDiv := 3
  stackDepth := 16
  fetchAlignFault := false
  font := Config.defaultFont

def base : State := State.construct modern
def old : State := State.construct legacy

/-- Registers set one by one. -/
def regs (s : State) (l : List (Nibble × Byte)) : State := l.foldl (fun s p => s.setReg p.1 p.2) s

def nextOf : Host.Outcome State Fault Refusal → Option State
  | .next t => some t
  | .fault _ => none
  | .refused _ => none

/-- One cycle on the word at PC, with the random byte 0xB7 of spec/95. -/
def run (s : State) (w : Word) : Option State := nextOf (cycle 0xB7 (s.putWord s.pc.toNat w))

/-- One cycle on the word at PC, read by `f`. -/
def see {α : Type} (s : State) (w : Word) (f : State → α) : Option α := (run s w).map f

/-- The record of a fault taken with PC and V kept. -/
def faultOf (s : State) (w : Word) : Option FaultRecord :=
  match run s w with
  | some t => if t.pc = s.pc ∧ t.v = s.v ∧ t.i = s.i ∧ t.sp = s.sp then
      match t.status with
      | .faulted f => some f
      | .running => none
      | .quit => none
    else none
  | none => none

/-! ### Well-formedness: each check refuses an ill-formed term -/

theorem test_divider_zero_refused : ¬({ modern with timerDiv := 0 } : Config).WellFormed := by decide
theorem test_depth_zero_refused : ¬({ modern with stackDepth := 0 } : Config).WellFormed := by decide
theorem test_short_font_refused : ¬({ modern with font := [0xF0] } : Config).WellFormed := by decide
theorem test_long_font_refused : ¬({ modern with font := 0x00 :: Config.defaultFont } : Config).WellFormed := by
  decide
theorem test_configs_wellFormed : modern.WellFormed ∧ legacy.WellFormed ∧ Config.hardware.WellFormed := by
  refine ⟨by decide, by decide, Nat.le_add_left 1 _, by decide, by decide⟩
theorem test_long_image_refused : ¬ImageWellFormed (List.replicate 3585 0x00) := by
  rw [ImageWellFormed, List.length_replicate]
  decide
theorem test_full_image_wellFormed : ImageWellFormed (List.replicate 3584 0x00) := by
  rw [ImageWellFormed, List.length_replicate]
  decide
theorem test_unsorted_memory_refused :
    ¬Memory.WellFormed Config.defaultFont [(0x301, 0x01), (0x300, 0x02)] := by decide
theorem test_listed_default_refused :
    ¬Memory.WellFormed Config.defaultFont [(0x000, 0xF0)] ∧
      ¬Memory.WellFormed Config.defaultFont [(0x300, 0x00)] ∧
      ¬Memory.WellFormed Config.defaultFont [(0x1000, 0x01)] := by decide

/-! ### Decoding: a word of each row of R74, its bits written out from the rule -/

theorem test_decode_0 : decodeWord 0b0000000011100000 = some .cls ∧
    decodeWord 0b0000000011101110 = some .ret ∧ decodeWord 0b0001001000110100 = some (.jp 0x234) ∧
    decodeWord 0b0010010001010110 = some (.call 0x456) := by decide
theorem test_decode_3 : decodeWord 0b0011000101000010 = some (.seImm 0x1 0x42) ∧
    decodeWord 0b0100101111111110 = some (.sneImm 0xB 0xFE) ∧
    decodeWord 0b0101110000010000 = some (.seReg 0xC 0x1) ∧
    decodeWord 0b0110001110101011 = some (.ldImm 0x3 0xAB) := by decide
theorem test_decode_7 : decodeWord 0b0111001000000101 = some (.addImm 0x2 0x05) ∧
    decodeWord 0b1000000100100000 = some (.ldReg 0x1 0x2) ∧
    decodeWord 0b1000000100100001 = some (.orReg 0x1 0x2) ∧
    decodeWord 0b1000111000110010 = some (.andReg 0xE 0x3) := by decide
theorem test_decode_8 : decodeWord 0b1000000100110011 = some (.xorReg 0x1 0x3) ∧
    decodeWord 0b1000100001110100 = some (.addReg 0x8 0x7) ∧
    decodeWord 0b1000000100100101 = some (.subReg 0x1 0x2) ∧
    decodeWord 0b1000000100100110 = some (.shr 0x1 0x2) := by decide
theorem test_decode_9 : decodeWord 0b1000111101000111 = some (.subnReg 0xF 0x4) ∧
    decodeWord 0b1000000100101110 = some (.shl 0x1 0x2) ∧
    decodeWord 0b1001000100100000 = some (.sneReg 0x1 0x2) ∧
    decodeWord 0b1010101111001101 = some (.ldIndex 0xBCD) := by decide
theorem test_decode_B : decodeWord 0b1011001100010010 = some (.jpOffset 0x312) ∧
    decodeWord 0b1100000100001111 = some (.rnd 0x1 0x0F) ∧
    decodeWord 0b1101000100101111 = some (.drw 0x1 0x2 0xF) ∧
    decodeWord 0b1110000110011110 = some (.skp 0x1) := by decide
theorem test_decode_E : decodeWord 0b1110101010100001 = some (.sknp 0xA) ∧
    decodeWord 0b1111001100000111 = some (.ldFromDelay 0x3) ∧
    decodeWord 0b1111001000001010 = some (.ldKey 0x2) ∧
    decodeWord 0b1111000000010101 = some (.ldDelay 0x0) := by decide
theorem test_decode_F : decodeWord 0b1111010000011000 = some (.ldSound 0x4) ∧
    decodeWord 0b1111000100011110 = some (.addIndex 0x1) ∧
    decodeWord 0b1111100000101001 = some (.ldGlyph 0x8) ∧
    decodeWord 0b1111010100110011 = some (.storeBcd 0x5) := by decide
theorem test_decode_F55 : decodeWord 0b1111000101010101 = some (.storeRegs 0x1) ∧
    decodeWord 0b1111111101100101 = some (.loadRegs 0xF) := by decide

/-- Unknown words of every family with a gap (spec/95 L2.1). -/
theorem test_decode_unknown : [0x0000, 0x01E0, 0x0123, 0x5121, 0x9121, 0x8128, 0x800F].map decodeWord =
    List.replicate 7 none := by decide
theorem test_decode_unknown_EF : [0xE19F, 0xE1A2, 0xE000, 0xF0FF, 0xF10B, 0xF175].map decodeWord =
    List.replicate 6 none := by decide

/-- Bytes in memory order, most significant first; one byte is no instruction (R56, R70). -/
theorem test_decode_bytes : decodeBytes [0x12, 0x34, 0x60] = .ok (.jp 0x234, [0x60]) ∧
    decodeBytes [0x12] = .error .truncated ∧ decodeBytes [] = .error .truncated ∧
    decodeBytes [0xE0, 0x00] = .error (.unknownOpcode 0xE000) := ⟨rfl, rfl, rfl, rfl⟩

theorem test_decode_table_word : decodeTableWord 16 0xD12F = some (.drw 0x1 0x2 0xF) ∧
    decodeTableWord 16 0xF0FF = none := by decide

/-! ### The first instruction after reset -/

/-- `withFetchWord` places the word at 0x200 and the next step runs it (log 12). -/
theorem test_first_instruction :
    (nextOf (step (State.reset.withFetchWord 16 0x63AB))).map (fun t => (t.reg 0x3, t.pc)) =
      some (0xAB, 0x202) := by decide +kernel
theorem test_first_instruction_after_fault :
    (nextOf (step (((State.reset.jump 0x201).faulted (.misalignedFetch 0x201)).withFetchWord 16 0x1ABC))).map
      (fun t => (t.pc, t.status)) = some (0xABC, .running) := by decide +kernel
theorem test_reset_memory : (State.reset.byteAt 0x000, State.reset.byteAt 0x04F, State.reset.byteAt 0x050,
    State.reset.byteAt 0x200) = (0xF0, 0x80, 0x00, 0x00) := by decide

/-! ### Fetch (spec/95 L2.2) -/

theorem test_fetch_misaligned : faultOf (base.jump 0x201) 0x6001 = some (.misalignedFetch 0x201) ∧
    faultOf (base.jump 0x1001) 0x6001 = some (.misalignedFetch 0x1001) := by decide
theorem test_fetch_odd_allowed : see (old.jump 0x201) 0x6007 (fun t => (t.reg 0x0, t.pc)) =
    some (0x07, 0x203) := by decide
theorem test_fetch_edge : see (base.jump 0xFFE) 0x6001 (fun t => (t.reg 0x0, t.pc)) = some (0x01, 0x1000) ∧
    faultOf (base.jump 0x1000) 0x6001 = some (.addressOutOfRange 0x1000 0x1000) ∧
    faultOf (old.jump 0xFFF) 0x6001 = some (.addressOutOfRange 0x1000 0xFFF) := by decide
theorem test_unknown_word : faultOf base 0xE000 = some (.unknownOpcode 0xE000 0x200) ∧
    faultOf base 0x0000 = some (.unknownOpcode 0x0000 0x200) := by decide

/-! ### Control flow (spec/95 L2.3) -/

theorem test_ret_pops : see { base with sp := 2, stack := base.stack.set 1 0x40A } 0x00EE
    (fun t => (t.pc, t.sp, t.stack[1]?)) = some (0x40A, 1, some 0x40A) := by decide
theorem test_ret_underflow : faultOf base 0x00EE = some (.stackUnderflow 0x200) := by decide
theorem test_jp : see base 0x1FFF State.pc = some 0xFFF ∧ see base 0x1200 State.pc = some 0x200 := by decide
theorem test_call_last_entry : see { base with sp := 15 } 0x2456
    (fun t => (t.pc, t.sp, t.stack[15]?, t.stack[14]?)) = some (0x456, 16, some 0x202, some 0x0000) := by decide
theorem test_call_overflow : faultOf { base with sp := 16 } 0x2456 = some (.stackOverflow 0x200) := by decide
theorem test_seImm : see (regs base [(0x1, 0x42)]) 0x3142 State.pc = some 0x204 ∧
    see (regs base [(0x1, 0x42)]) 0x3143 State.pc = some 0x202 := by decide
theorem test_sneImm : see (regs base [(0x1, 0x42)]) 0x4142 State.pc = some 0x202 ∧
    see (regs base [(0x1, 0x42)]) 0x4143 State.pc = some 0x204 := by decide
theorem test_seReg : see (regs base [(0x1, 0x07), (0x2, 0x07)]) 0x5120 State.pc = some 0x204 ∧
    see (regs base [(0x1, 0x07), (0x2, 0x08)]) 0x5120 State.pc = some 0x202 := by decide
theorem test_sneReg : see (regs base [(0x1, 0x07), (0x2, 0x08)]) 0x9120 State.pc = some 0x204 ∧
    see (regs base [(0x1, 0x07)]) 0x9110 State.pc = some 0x202 := by decide
theorem test_jpOffset_v0 : see (regs base [(0x0, 0x10), (0x3, 0x04)]) 0xB312 State.pc = some 0x322 ∧
    see (regs base [(0x0, 0xFF)]) 0xBFFF State.pc = some 0x10FE := by decide
theorem test_jpOffset_vx : see (regs old [(0x0, 0x10), (0x3, 0x04)]) 0xB312 State.pc = some 0x316 := by decide

/-! ### ALU (spec/95 L1, L2.4) -/

theorem test_ldImm : see base 0x6FAB (fun t => (t.reg 0xF, t.pc)) = some (0xAB, 0x202) := by decide
theorem test_addImm : see (regs base [(0x2, 0x10)]) 0x72F5 (fun t => (t.reg 0x2, t.reg 0xF)) =
    some (0x05, 0x00) := by decide
theorem test_ldReg : see (regs base [(0x1, 0x12), (0x2, 0x34)]) 0x8120 (fun t => (t.reg 0x1, t.reg 0x2)) =
    some (0x34, 0x34) := by decide
theorem test_orReg : see (regs base [(0x1, 0xF0), (0x2, 0x0F), (0xF, 0x01)]) 0x8121
    (fun t => (t.reg 0x1, t.reg 0xF)) = some (0xFF, 0x01) := by decide
theorem test_andReg : see (regs base [(0x1, 0xF0), (0x2, 0x3C), (0xF, 0x01)]) 0x8122
    (fun t => (t.reg 0x1, t.reg 0xF)) = some (0x30, 0x01) := by decide
theorem test_xorReg : see (regs base [(0x1, 0xF0), (0x2, 0x3C)]) 0x8123 (fun t => t.reg 0x1) = some 0xCC ∧
    see (regs base [(0x1, 0x5A)]) 0x8113 (fun t => t.reg 0x1) = some 0x00 := by decide
theorem test_addReg : see (regs base [(0x0, 0xFF), (0x1, 0xFF)]) 0x8014 (fun t => (t.reg 0x0, t.reg 0xF)) =
    some (0xFE, 0x01) := by decide
theorem test_addReg_flag_operands : see (regs base [(0xF, 0x10), (0x1, 0xF5)]) 0x8F14 (fun t => t.reg 0xF) =
      some 0x01 ∧
    see (regs base [(0x1, 0x01), (0xF, 0xFF)]) 0x81F4 (fun t => (t.reg 0x1, t.reg 0xF)) =
      some (0x00, 0x01) := by decide
theorem test_subReg : see (regs base [(0x1, 0x03), (0x2, 0x05)]) 0x8125 (fun t => (t.reg 0x1, t.reg 0xF)) =
      some (0xFE, 0x00) ∧
    see (regs base [(0x0, 0x37)]) 0x8005 (fun t => (t.reg 0x0, t.reg 0xF)) = some (0x00, 0x01) := by decide
theorem test_subReg_into_flag : see (regs base [(0xF, 0x03), (0x1, 0x05)]) 0x8F15 (fun t => t.reg 0xF) =
    some 0x00 := by decide
theorem test_subnReg : see (regs base [(0x0, 0x05), (0x1, 0x03)]) 0x8017 (fun t => (t.reg 0x0, t.reg 0xF)) =
      some (0xFE, 0x00) ∧
    see (regs base [(0x0, 0x03), (0x1, 0x05)]) 0x8017 (fun t => (t.reg 0x0, t.reg 0xF)) =
      some (0x02, 0x01) := by decide
theorem test_shr_legacy : see (regs old [(0x1, 0xAA), (0x2, 0x05)]) 0x8126
    (fun t => (t.reg 0x1, t.reg 0xF, t.reg 0x2)) = some (0x02, 0x01, 0x05) := by decide
theorem test_shr_modern : see (regs base [(0x1, 0x03), (0x2, 0xF0)]) 0x8126 (fun t => (t.reg 0x1, t.reg 0xF)) =
      some (0x01, 0x01) ∧
    see (regs base [(0xF, 0x03)]) 0x8F06 (fun t => t.reg 0xF) = some 0x01 := by decide
theorem test_shl_legacy : see (regs old [(0x1, 0x00), (0x2, 0xC0)]) 0x812E (fun t => (t.reg 0x1, t.reg 0xF)) =
    some (0x80, 0x01) := by decide
theorem test_shl_modern : see (regs base [(0x1, 0x7F)]) 0x810E (fun t => (t.reg 0x1, t.reg 0xF)) =
    some (0xFE, 0x00) := by decide
theorem test_rnd : see base 0xC10F (fun t => (t.reg 0x1, t.reg 0xF)) = some (0x07, 0x00) := by decide

/-! ### Index and memory (spec/95 L2.5) -/

theorem test_ldIndex : see base 0xAFFF State.i = some 0x0FFF := by decide
theorem test_addIndex : see { regs old [(0x0, 0x01)] with i := 0x0FFF } 0xF01E (fun t => (t.i, t.reg 0xF)) =
      some (0x1000, 0x01) ∧
    see { regs base [(0x0, 0x01), (0xF, 0x07)] with i := 0x0FFF } 0xF01E (fun t => (t.i, t.reg 0xF)) =
      some (0x1000, 0x07) := by decide
theorem test_addIndex_overflow : faultOf { regs base [(0x0, 0x01)] with i := 0xFFFF } 0xF01E =
    some (.indexOverflow 0x200) := by decide
theorem test_ldGlyph : see (regs base [(0x0, 0xFF)]) 0xF029 State.i = some 0x004B ∧
    see (regs base [(0x1, 0x1A)]) 0xF129 State.i = some 0x0032 := by decide
theorem test_storeBcd : see { regs base [(0x5, 0xEA)] with i := 0xFFD } 0xF533
    (fun t => (t.byteAt 0xFFD, t.byteAt 0xFFE, t.byteAt 0xFFF, t.i)) = some (2, 3, 4, 0xFFD) := by decide
theorem test_storeBcd_out_of_range :
    faultOf { regs base [(0x0, 123)] with i := 0xFFE } 0xF033 = some (.addressOutOfRange 0x1000 0x200) ∧
    see { regs base [(0x0, 123)] with i := 0xFFE } 0xF033 (fun t => t.byteAt 0xFFE) = some 0x00 := by decide
theorem test_storeRegs : see { regs base [(0x0, 0xAB), (0x1, 0xCD), (0x2, 0xEF)] with i := 0x300 } 0xF155
    (fun t => (t.byteAt 0x300, t.byteAt 0x301, t.byteAt 0x302, t.i)) = some (0xAB, 0xCD, 0x00, 0x302) := by decide
theorem test_storeRegs_edge : see { regs old [(0xF, 0x0F)] with i := 0xFF0 } 0xFF55
      (fun t => (t.byteAt 0xFFF, t.i)) = some (0x0F, 0xFF0) ∧
    faultOf { base with i := 0xFF1 } 0xFF55 = some (.addressOutOfRange 0x1000 0x200) := by decide
theorem test_loadRegs : see base 0xF465
    (fun t => ([t.reg 0x0, t.reg 0x1, t.reg 0x3, t.reg 0x4, t.reg 0x5], t.i)) =
      some ([0xF0, 0x90, 0x90, 0xF0, 0x00], 0x005) := by decide
theorem test_loadRegs_out_of_range : faultOf { base with i := 0x1000 } 0xF065 =
    some (.addressOutOfRange 0x1000 0x200) := by decide

/-! ### Display (spec/95 L2.6) -/

/-- The state with a sprite byte at 0x300 and I there. -/
def sprite (s : State) (b : Byte) : State := (s.setByte 0x300 b).writeIndex 0x300

theorem test_cls : see { base with fb := base.fb.flip 5 7 } 0x00E0 (fun t => (t.fb.cell 5 7, t.dirty)) =
    some (false, true) := by decide
theorem test_drw_wraps_both_edges : see (regs (sprite base 0xC0) [(0x0, 0x7F), (0x1, 0x3F)]) 0xD011
    (fun t => (t.fb.cell 63 31, t.fb.cell 0 31, t.fb.cell 1 31, t.reg 0xF, t.dirty)) =
      some (true, true, false, 0x00, true) := by decide
theorem test_drw_collision :
    see (sprite { base with fb := base.fb.flip 1 0 } 0xC0) 0xD011
      (fun t => (t.fb.cell 0 0, t.fb.cell 1 0, t.reg 0xF)) = some (true, false, 0x01) ∧
    see (sprite { base with fb := base.fb.flip 2 0 } 0xC0) 0xD011
      (fun t => (t.fb.cell 1 0, t.fb.cell 2 0, t.reg 0xF)) = some (true, true, 0x00) := by decide
theorem test_drw_empty_and_out_of_range :
    see { regs base [(0xF, 0x09)] with i := 0xFFFF } 0xD010 (fun t => (t.reg 0xF, t.dirty)) =
      some (0x00, true) ∧
    faultOf { base with i := 0xFF2 } 0xD01F = some (.addressOutOfRange 0x1000 0x200) := by decide

/-! ### Timers and keys (spec/95 L2.7) -/

theorem test_skp : see { regs base [(0x0, 0x15)] with key := some 0x5 } 0xE09E State.pc = some 0x202 ∧
    see { base with key := some 0x0 } 0xE09E State.pc = some 0x204 := by decide
theorem test_sknp : see (regs base [(0x0, 0x05)]) 0xE0A1 State.pc = some 0x204 ∧
    see { regs base [(0x0, 0x05)] with key := some 0x5 } 0xE0A1 State.pc = some 0x202 := by decide
theorem test_ldFromDelay : see { old with dt := 0x2A, tdiv := 2 } 0xF307 (fun t => (t.reg 0x3, t.dt, t.tdiv)) =
    some (0x2A, 0x29, 0) := by decide
theorem test_ldKey : see { base with kde := some 0xA } 0xF20A (fun t => (t.reg 0x2, t.pc, t.kde)) =
      some (0x0A, 0x202, none) ∧
    see base 0xF20A (fun t => (t.reg 0x2, t.pc)) = some (0x00, 0x200) := by decide
theorem test_ldDelay : see (regs base [(0x0, 0x05)]) 0xF015 (fun t => (t.dt, t.st)) = some (0x05, 0x00) ∧
    see { regs old [(0x0, 0x05)] with tdiv := 2 } 0xF015 State.dt = some 0x04 := by decide
theorem test_ldSound : see (regs base [(0x4, 0x10)]) 0xF418 (fun t => (t.st, t.soundOn)) =
    some (0x10, true) := by decide
theorem test_faulting_cycle_ticks_nothing :
    see { old with dt := 10, tdiv := 2 } 0x00EE (fun t => (t.dt, t.tdiv)) = some (10, 2) := by decide

/-! ### Host events and load (spec/95 L2.8, L2.9) -/

theorem test_events : (nextOf (act .tick { base with st := 1 })).map (fun t => (t.dt, t.st, t.soundOn)) =
      some (0, 0, false) ∧
    (nextOf (act .quit base)).map State.status = some .quit ∧
    (nextOf (act .ackDirty { base with dirty := true })).map State.dirty = some false := by decide
theorem test_events_keys : (((base.keyDown 1).keyDown 2).keyUp 1).key = none ∧
    (((base.keyDown 1).keyDown 2).keyUp 1).kde = some 2 := by decide
theorem test_load_odd_length : (let s := base.load (.image [0x60, 0x07, 0x61])
    (s.byteAt 0x200, s.byteAt 0x202, s.byteAt 0x203, s.status)) = (0x60, 0x61, 0x00, .running) := by decide
theorem test_ended_run : cycle 0x00 (base.faulted (.stackUnderflow 0x200)) =
      .fault (.runFaulted (.stackUnderflow 0x200)) ∧ cycle 0x00 base.quitRun = .fault .runQuit ∧
    step { old with agenda := [.tick] } = .refused .tickUnderInstrCount := ⟨rfl, rfl, rfl⟩
theorem test_fault_numbers : faultNumber (.unknownOpcode 0 0) = 0 ∧ faultNumber (.indexOverflow 0) = 6 := by
  decide

/-! ### Witnesses: concrete states and operands that meet each statement's hypotheses -/

/-- A state with the word at 0x200. -/
def withWord (s : State) (w : Word) : State := s.putWord 0x200 w

theorem test_base_inv : base.Inv :=
  ⟨by decide, by decide, by decide, by decide, by decide, by decide,
    fun r hr => by rw [List.eq_of_mem_replicate hr]; decide⟩
theorem test_old_inv : old.Inv :=
  ⟨by decide, by decide, by decide, by decide, by decide, by decide,
    fun r hr => by rw [List.eq_of_mem_replicate hr]; decide⟩

theorem test_witness_DecodeThenEncodeGivesTheWord : decodeWord 0x1234 = some (.jp 0x234) := by decide

theorem test_witness_WordIsInstructionIffExactlyOneRowMatches :
    decodeWord 0xFF65 = some (.loadRegs 0xF) ∧ (0xF0FF, 0xF065) ∈ opcodeRows ∧
      meetsRow 0xFF65 (0xF0FF, 0xF065) = true := by decide

/-- The last word of memory, with a cycle on the agenda. -/
theorem test_witness_StepRunsTheDecodedInstruction :
    let s := { (base.jump 0xFFE).putWord 0xFFE 0x6001 with agenda := [.cycle 0x5A] }
    s.status = .running ∧ FetchPasses s ∧ s.agenda = .cycle 0x5A :: [] ∧
      decodeBytes [s.byteAt s.pc.toNat, s.byteAt (s.pc.toNat + 1)] = .ok (.ldImm 0x0 0x01, []) :=
  ⟨rfl, ⟨fun _ => rfl, by decide⟩, rfl, rfl⟩

/-- The first word of memory, with an empty agenda. -/
theorem test_witness_StepRunsTheDecodedInstruction_empty :
    let s := (base.jump 0x000).putWord 0x000 0x00E0
    s.status = .running ∧ FetchPasses s ∧ s.agenda = [] ∧
      decodeBytes [s.byteAt s.pc.toNat, s.byteAt (s.pc.toNat + 1)] = .ok (.cls, []) :=
  ⟨rfl, ⟨fun _ => rfl, by decide⟩, rfl, rfl⟩

/-- Each clause at an end of its range: odd addresses, 4096 and 0xFFFF, 4095. -/
theorem test_witness_FetchChecksFaultInOrder :
    (base.cfg.fetchAlignFault = true ∧ (base.jump 0x001).pc.toNat % 2 = 1 ∧
      (base.jump 0xFFFF).pc.toNat % 2 = 1 ∧ (base.jump 0x001).status = .running) ∧
    ((base.jump 0x1000).pc.toNat % 2 = 0 ∧ 4096 ≤ (base.jump 0x1000).pc.toNat) ∧
    (old.cfg.fetchAlignFault = false ∧ 4096 ≤ (old.jump 0xFFFF).pc.toNat ∧
      (old.jump 0xFFF).pc.toNat = 4095 ∧ (old.jump 0xFFF).status = .running) := by decide

theorem test_witness_UnknownWordEndsTheRun :
    base.status = .running ∧ FetchPasses base ∧ ∀ row ∈ opcodeRows,
      meetsRow (wordOfBytes (base.byteAt base.pc.toNat) (base.byteAt (base.pc.toNat + 1))) row = false :=
  ⟨rfl, ⟨fun _ => rfl, by decide⟩, by
    rw [show wordOfBytes (base.byteAt base.pc.toNat) (base.byteAt (base.pc.toNat + 1)) = 0x0000 by decide]
    simp [opcodeRows, meetsRow]⟩

theorem test_witness_FaultingCycleChangesOnlyStatus :
    ∃ t, cycle 0x00 (withWord base 0x00EE) = .next t ∧ t.status = .faulted (.stackUnderflow 0x200) :=
  ⟨_, rfl, rfl⟩

theorem test_witness_EndedRunHasNoCycle :
    (withWord base 0x00E0).status = .running ∧ (∃ t, cycle 0x00 (withWord base 0x00E0) = .next t) ∧
    (∃ t, base.quitRun.status ≠ .running ∧
      step { base.quitRun with agenda := [.keyDown 0xA] } = .next t) :=
  ⟨rfl, ⟨_, rfl⟩, _, by decide, rfl⟩

theorem test_witness_RunningMachineCycleAlwaysAnswers : base.status = .running := rfl

/-- WallClock; InstrCount below the divider; InstrCount at the divider. -/
theorem test_witness_CompletedCycleTicksThenClearsKeyCapture :
    (∃ t, ((withWord base 0x00E0).latchRnd 0).fetchInstr = .ok .cls ∧
      exec .cls ((withWord base 0x00E0).latchRnd 0) = .next t ∧ t.status = .running ∧
      t.cfg.timerPolicy = .wallClock) ∧
    (∃ t, ((withWord old 0x00E0).latchRnd 0).fetchInstr = .ok .cls ∧
      exec .cls ((withWord old 0x00E0).latchRnd 0) = .next t ∧ t.status = .running ∧
      t.cfg.timerPolicy = .instrCount ∧ t.tdiv + 1 ≠ t.cfg.timerDiv) ∧
    (∃ t, ((withWord { old with tdiv := 2 } 0x00E0).latchRnd 0).fetchInstr = .ok .cls ∧
      exec .cls ((withWord { old with tdiv := 2 } 0x00E0).latchRnd 0) = .next t ∧ t.status = .running ∧
      t.cfg.timerPolicy = .instrCount ∧ t.tdiv + 1 = t.cfg.timerDiv) :=
  ⟨⟨_, rfl, rfl, rfl, rfl⟩, ⟨_, rfl, rfl, rfl, rfl, by decide⟩, ⟨_, rfl, rfl, rfl, rfl, rfl⟩⟩

theorem test_witness_InstructionRaisesOnlyItsOwnKind :
    (∃ t, base.status = .running ∧ exec .ret base = .next t ∧
      t.status = .faulted (.stackUnderflow 0x200)) ∧
    (∃ t, exec (.call 0x456) { base with sp := 16 } = .next t ∧
      t.status = .faulted (.stackOverflow 0x200)) ∧
    (∃ t, exec (.addIndex 0x0) { regs base [(0x0, 0x01)] with i := 0xFFFF } = .next t ∧
      t.status = .faulted (.indexOverflow 0x200)) ∧
    (∃ t, exec (.loadRegs 0x0) { base with i := 0x1000 } = .next t ∧
      t.status = .faulted (.addressOutOfRange 0x1000 0x200)) :=
  ⟨⟨_, rfl, rfl, rfl⟩, ⟨_, rfl, rfl⟩, ⟨_, rfl, rfl⟩, ⟨_, rfl, rfl⟩⟩

theorem test_witness_StepKeepsInvariant :
    (withWord base 0x00E0).Inv ∧ ∃ t, step (withWord base 0x00E0) = .next t :=
  ⟨⟨by decide, by decide, by decide, by decide, by decide, by decide,
    fun r hr => by rw [List.eq_of_mem_replicate hr]; decide⟩, _, rfl⟩

theorem test_witness_ResetMeetsInvariant : modern.WellFormed ∧ legacy.WellFormed := by decide

theorem test_witness_ConfigurationNeverChanges : ∃ t, step (withWord old 0x00E0) = .next t := ⟨_, rfl⟩

/-- An instruction of each clause that does write the element. -/
theorem test_witness_OnlyNamedInstructionsWriteEachElement :
    (∃ t, exec .cls base = .next t ∧ t.dirty ≠ base.dirty) ∧
    (∃ t, exec (.storeRegs 0x0) { regs base [(0x0, 0x01)] with i := 0x300 } = .next t ∧ t.mem ≠ base.mem) ∧
    (∃ t, exec (.ldDelay 0x0) (regs base [(0x0, 0x05)]) = .next t ∧ t.dt ≠ base.dt) ∧
    (∃ t, exec (.ldSound 0x0) (regs base [(0x0, 0x05)]) = .next t ∧ t.st ≠ base.st) ∧
    (∃ t, exec (.call 0x456) base = .next t ∧ t.stack ≠ base.stack ∧ t.sp ≠ base.sp) ∧
    (∃ t, exec (.loadRegs 0x0) base = .next t ∧ t.i ≠ base.i) ∧
    (∃ t, exec (.loadRegs 0xF) base = .next t ∧ t.reg 0xE ≠ base.reg 0xE) ∧
    (∃ t, exec (.subReg 0x0 0x1) base = .next t ∧ t.reg flagReg ≠ base.reg flagReg) ∧
    (∃ t, exec (.jp 0x300) base = .next t ∧ t.pc ≠ base.pc + 2) ∧
    (∃ t, exec (.seReg 0x0 0x1) base = .next t ∧ t.pc ≠ base.pc + 2) ∧
    (∃ t, exec (.ldKey 0x0) base = .next t ∧ t.pc ≠ base.pc + 2) ∧
    (∃ t, exec .ret base = .next t ∧ t.pc ≠ base.pc + 2 ∧ t.status ≠ base.status) :=
  ⟨⟨_, rfl, by decide⟩, ⟨_, rfl, by decide⟩, ⟨_, rfl, by decide⟩, ⟨_, rfl, by decide⟩,
    ⟨_, rfl, by decide, by decide⟩, ⟨_, rfl, by decide⟩, ⟨_, rfl, by decide⟩, ⟨_, rfl, by decide⟩,
    ⟨_, rfl, by decide⟩, ⟨_, rfl, by decide⟩, ⟨_, rfl, by decide⟩, ⟨_, rfl, by decide, by decide⟩⟩

theorem test_witness_HostEventsNeverTouchTheProgram :
    (∃ t, isCycle (.keyDown 0xF) = false ∧ act (.keyDown 0xF) base = .next t) ∧
    (∃ t, isCycle .tick = false ∧ act .tick base = .next t) := ⟨⟨_, rfl, rfl⟩, ⟨_, rfl, rfl⟩⟩

theorem test_witness_ResetLeavesEveryElementAtItsValue :
    Config.defaultFont[79]? = some 0x80 ∧ ImageWellFormed [] := by decide

/-- The longest image that fits and the shortest that does not. -/
theorem test_witness_LoadPlacesTheImageVerbatim :
    Memory.WellFormed base.cfg.font base.mem ∧ (List.replicate 3584 (0x12 : Byte)).length ≤ 3584 ∧
      3584 < (List.replicate 3585 (0x12 : Byte)).length := by
  refine ⟨by decide, ?_, ?_⟩
  · rw [List.length_replicate]
  · rw [List.length_replicate]
    decide

theorem test_witness_JumpsSetPcToTheExactTarget : base.cfg.jumpVx = false ∧ old.cfg.jumpVx = true := by decide

theorem test_witness_SelfJumpRunsForEver :
    let s := withWord base 0x1200
    s.status = .running ∧ s.agenda = [] ∧ s.pc.toNat = (0x200 : Addr12).toNat ∧
      s.fetchInstr = .ok (.jp 0x200) := ⟨rfl, rfl, rfl, rfl⟩

/-- The last free entry; no free entry. -/
theorem test_witness_CallPushesTheReturnAddress :
    (base.stack.length = base.cfg.stackDepth ∧ ({ base with sp := 15 } : State).sp < base.cfg.stackDepth) ∧
      ({ base with sp := 16 } : State).sp = base.cfg.stackDepth := by decide

theorem test_witness_ReturnPopsTheTopEntry :
    (({ base with sp := 16 } : State).sp = 15 + 1 ∧ base.stack[15]? = some 0x0000) ∧ base.sp = 0 := by decide

theorem test_witness_ReturnResumesAfterTheCall :
    base.stack.length = base.cfg.stackDepth ∧ base.sp < base.cfg.stackDepth ∧
      ∃ t, exec (.call 0x300) base = .next t ∧ (t.setReg 0x1 0x07).stack = t.stack ∧
        (t.setReg 0x1 0x07).sp = t.sp := ⟨by decide, by decide, _, rfl, rfl, rfl⟩

theorem test_witness_RegisterSkipsPassOverOneWord :
    base.reg 0x1 = 0x00 ∧ base.reg 0x1 ≠ 0xFF ∧ base.reg 0x1 = base.reg 0x2 ∧
      (regs base [(0x1, 0x07)]).reg 0x1 ≠ (regs base [(0x1, 0x07)]).reg 0x2 := by decide

/-- X may be F or not in the flag-setting instructions. -/
theorem test_witness_AddWritesSumThenCarry : (0xE : Nibble) ≠ flagReg ∧ ¬(0xF : Nibble) ≠ flagReg := by decide
theorem test_witness_SubtractionsWriteDifferenceThenNotBorrow : (0x0 : Nibble) ≠ flagReg := by decide

theorem test_witness_ShiftsMoveOneBitIntoTheFlag :
    (old.cfg.shiftUsesVy = true ∧ (regs old [(0x2, 0x05)]).reg 0x2 = 0x05) ∧
      (base.cfg.shiftUsesVy = false ∧ (regs base [(0x1, 0x05)]).reg 0x1 = 0x05) := by decide

/-- The largest sum that fits and the smallest that does not, with and without the flag. -/
theorem test_witness_AddIndexIsExactOrFaults :
    (let s := { regs base [(0x0, 0x01)] with i := 0xFFFE }
     s.i.toNat + (s.reg 0x0).toNat ≤ 0xFFFF ∧ s.cfg.fx1eVf = false) ∧
    old.cfg.fx1eVf = true ∧
    (let s := { regs base [(0x0, 0x01)] with i := 0xFFFF }
     0xFFFF < s.i.toNat + (s.reg 0x0).toNat) := by decide

theorem test_witness_StoreBcdWritesThreeDigits :
    let s := { base with i := 0xFFD }
    Memory.WellFormed s.cfg.font s.mem ∧ s.indexAddr + 3 ≤ Config.memorySize := by decide

/-- All 16 registers at the top of memory, with and without the advance; it is the witness of
LoadRegsCopiesMemoryToRegisters as well. -/
theorem test_witness_StoreRegsCopiesRegistersToMemory :
    let s := { base with i := 0xFF0 }
    Memory.WellFormed s.cfg.font s.mem ∧ s.indexAddr + ((0xF : Nibble).toNat + 1) ≤ Config.memorySize ∧
      base.cfg.lsAdvanceI = true ∧ old.cfg.lsAdvanceI = false := by decide

theorem test_witness_LoadRegsCopiesMemoryToRegisters :
    ({ base with i := 0xFFF } : State).indexAddr + ((0x0 : Nibble).toNat + 1) ≤ Config.memorySize := by decide

/-- The lowest I that is out of range, for each instruction. -/
theorem test_witness_OutOfRangeAccessFaultsBeforeAnyWrite :
    4096 < ({ base with i := 0xFFE } : State).indexAddr + 3 ∧
    4096 < ({ base with i := 0xFF1 } : State).indexAddr + ((0xF : Nibble).toNat + 1) ∧
    4096 < ({ base with i := 0x1000 } : State).indexAddr + ((0x0 : Nibble).toNat + 1) ∧
    (0xF : Nibble) ≠ 0 ∧ 4096 < ({ base with i := 0xFF2 } : State).indexAddr + (0xF : Nibble).toNat := by decide

theorem test_witness_StoreThenLoadRestoresRegisters :
    let s := { old with i := 0xFFF }
    Memory.WellFormed s.cfg.font s.mem ∧ s.indexAddr + ((0x0 : Nibble).toNat + 1) ≤ Config.memorySize ∧
      ∃ t, exec (.storeRegs 0x0) s = .next t ∧ SameBytes t (t.setReg 0x0 0xFF) ∧
        (t.setReg 0x0 0xFF).i = s.i := ⟨by decide, by decide, _, rfl, fun _ => rfl, rfl⟩

theorem test_witness_StoredWordIsFetchedNext :
    let s := { regs base [(0x0, 0x12), (0x1, 0x0A)] with i := 0xFFE }
    Memory.WellFormed s.cfg.font s.mem ∧ 1 ≤ (0x1 : Nibble).toNat ∧
      s.indexAddr + ((0x1 : Nibble).toNat + 1) ≤ Config.memorySize ∧
      ∃ t, exec (.storeRegs 0x1) s = .next t ∧ SameBytes t (t.jump 0xFFE) ∧ (t.jump 0xFFE).pc = s.i :=
  ⟨by decide, by decide, by decide, _, rfl, fun _ => rfl, rfl⟩

theorem test_witness_ByteWrittenIsTheByteRead :
    Memory.WellFormed base.cfg.font base.mem ∧ 4095 < Config.memorySize := by decide

theorem test_witness_MemoriesThatReadAlikeAreEqual :
    Memory.WellFormed Config.defaultFont [(0xFFF, 0x01)] ∧
      ∀ a, Memory.read Config.defaultFont [(0xFFF, 0x01)] a = Memory.read Config.defaultFont [(0xFFF, 0x01)] a :=
  ⟨by decide, fun _ => rfl⟩

/-- No byte read, at any I; the last byte of memory read. -/
theorem test_witness_DrawTogglesTouchedCellsAndReportsCollision :
    SpriteInRange { base with i := 0xFFFF } 0x0 ∧ SpriteInRange { base with i := 0xFFF } 0x1 ∧
      (let s := { sprite base 0x80 with fb := base.fb.flip 0 0 }
       SpriteTouches s 0x0 0x1 0x1 0 0 ∧ s.fb.cell 0 0 = true) :=
  ⟨.inl rfl, .inr (by decide), ⟨0, 0, by decide, by decide, by decide, by decide, by decide⟩, by decide⟩

/-- The state after the first draw is itself such a state, where X and Y are not F. -/
theorem test_witness_DrawingTwiceRestoresTheFramebuffer :
    let s := sprite base 0xFF
    SpriteInRange s 0x1 ∧ ∃ t, exec (.drw 0x0 0x1 0x1) s = .next t ∧ t.fb = t.fb ∧
      t.reg 0x0 = s.reg 0x0 ∧ t.reg 0x1 = s.reg 0x1 ∧ t.i = s.i ∧ SameBytes s t :=
  ⟨.inr (by decide), _, rfl, rfl, by decide, by decide, rfl, fun _ => rfl⟩

theorem test_witness_KeySkipsCompareTheLatchedKey :
    (∃ k, ({ regs base [(0x0, 0x0F)] with key := some 0xF } : State).key = some k ∧
      k.toNat = ((regs base [(0x0, 0x0F)]).reg 0x0).toNat) ∧
    ¬∃ k, base.key = some k ∧ k.toNat = (base.reg 0x0).toNat :=
  ⟨⟨0xF, rfl, rfl⟩, by rintro ⟨k, h, _⟩; cases h⟩

theorem test_witness_KeyWaitStoresTheCapturedKeyOrHolds :
    ({ base with kde := some 0xF } : State).kde = some 0xF ∧ base.kde = none := by decide

theorem test_witness_KeyDownEndsTheWait :
    let s := { withWord base 0xF20A with agenda := [.cycle 0x00] }
    let s' := { withWord base 0xF20A with agenda := [.keyDown 0xA, .keyUp 0xA, .cycle 0x00] }
    (s.status = .running ∧ s.fetchInstr = .ok (.ldKey 0x2) ∧ s.kde = none ∧ s.agenda = .cycle 0x00 :: []) ∧
    (s'.status = .running ∧ s'.fetchInstr = .ok (.ldKey 0x2) ∧
      s'.agenda = .keyDown 0xA :: .keyUp 0xA :: .cycle 0x00 :: []) :=
  ⟨⟨rfl, rfl, rfl, rfl⟩, ⟨rfl, rfl, rfl⟩⟩

theorem test_witness_TimerTicksSaturateAtZero :
    ({ base with agenda := [.tick] } : State).agenda = .tick :: [] ∧
      base.cfg.timerPolicy = .wallClock := by decide

/-- Three cycles of a self-jump under a divider of 3 that stands at 2: the state before the k-th. From the
second on the host has delivered a key-down in between. -/
def spin (k : Nat) : State :=
  { withWord old 0x1200 with
    key := if k = 0 then none else some 0xA
    kde := if k = 0 then none else some 0xA
    dt := if k = 0 then 10 else 9
    tdiv := if k = 0 then 2 else k - 1 }

/-- The state after the k-th of those cycles, KDE cleared. -/
def spun (k : Nat) : State :=
  { spin k with kde := none, dt := 9, tdiv := k }

theorem test_witness_DelayFallsOncePerDivider :
    (spin 0).cfg.timerPolicy = .instrCount ∧ (spin 0).tdiv < (spin 0).cfg.timerDiv ∧
    ∀ k, k < (spin 0).cfg.timerDiv →
      cycle 0x00 (spin k) = .next (spun k) ∧ (spun k).status = .running ∧
      SameTimer (spun k) (spin (k + 1)) ∧
      ∀ x, ((spin k).latchRnd 0x00).fetchInstr ≠ .ok (.ldDelay x) := by
  refine ⟨rfl, by decide, fun k hk => ?_⟩
  have h3 : k < 3 := hk
  have hf : ((spin k).latchRnd 0x00).fetchInstr = .ok (.jp 0x200) := by interval_cases k <;> rfl
  refine ⟨?_, rfl, ?_, fun x h => ?_⟩
  · interval_cases k <;> rfl
  · interval_cases k <;> exact ⟨rfl, rfl, rfl⟩
  · rw [hf] at h
    cases h

theorem test_witness_HostEventsDoWhatTheyName :
    ({ base with agenda := [.quit] } : State).agenda = .quit :: [] ∧ base.status = .running ∧
      base.quitRun.status ≠ .running ∧
      ({ base with agenda := [.keyDown 0xF] } : State).agenda = .keyDown 0xF :: [] ∧
      ({ base with agenda := [.keyUp 0xF] } : State).agenda = .keyUp 0xF :: [] ∧
      ({ base with agenda := [.ackDirty] } : State).agenda = .ackDirty :: [] ∧
      ({ base with agenda := [.snapshot] } : State).agenda = .snapshot :: [] := by decide

end Sys2Proof.Tests
end

section
/-! SUPPORT. When a machine answers: every body of a cycle does, a cycle is one exactly while Running, and an
ended run keeps its STATUS (R33, R100, R107). -/

namespace Sys2Proof.Machine

theorem finishCycle_next (t : State) : ∃ u, finishCycle (.next t) = .next u := ⟨_, rfl⟩

theorem runCycle_of_error {s : State} {f : FaultRecord} (h : s.fetchInstr = .error f) :
    runCycle s = .next (s.faulted f) := by
  simp [runCycle, h, takeFault]

theorem runCycle_of_ok {s : State} {i : Instr} (h : s.fetchInstr = .ok i) :
    runCycle s = finishCycle (exec i s) := by
  simp [runCycle, h]

/-- A fault of the fetch is taken, and an instruction that was fetched is never refused (R100, R241). -/
theorem runCycle_answers (s : State) : ∃ t, runCycle s = .next t := by
  cases hf : s.fetchInstr with
  | error f => exact ⟨_, runCycle_of_error hf⟩
  | ok i =>
    obtain ⟨u, hu, -⟩ := exec_cases i s
    rw [runCycle_of_ok hf, hu]
    exact finishCycle_next u

theorem cycle_of_running (rnd : Byte) {s : State} (h : s.status = .running) :
    cycle rnd s = runCycle (s.latchRnd rnd) := by
  simp [cycle, h]

theorem not_cycle_next_of_ended {rnd : Byte} {s t : State} (hs : s.status ≠ .running) :
    cycle rnd s ≠ .next t :=
  fun h => hs (cycle_next h).1

theorem quitRun_status_of_ended {s : State} (hs : s.status ≠ .running) :
    s.quitRun.status = s.status := by
  simp [hs]

theorem hostTick_status {s t : State} (h : s.hostTick = .next t) : t.status = s.status := by
  unfold State.hostTick at h
  split at h <;> cases h
  rfl

/-- Of the host's actions only a quit writes STATUS outside a cycle, and it does so while Running (R33, R265). -/
theorem act_status_of_ended {a : HostAction} {s t : State} (hs : s.status ≠ .running)
    (h : act a s = .next t) : t.status = s.status := by
  cases a with
  | cycle rnd => exact absurd h (not_cycle_next_of_ended hs)
  | tick => exact hostTick_status h
  | quit =>
    cases h
    exact quitRun_status_of_ended hs
  | keyDown k | keyUp k | ackDirty | snapshot =>
    cases h
    rfl

theorem step_status_of_ended {s t : State} (hs : s.status ≠ .running) (h : step s = .next t) :
    t.status = s.status := by
  obtain ⟨-, hcycle⟩ | ⟨a, rest, -, hact⟩ := step_cases h
  · exact absurd hcycle (not_cycle_next_of_ended (s := s.countDraw) hs)
  · exact act_status_of_ended (s := s.setAgenda rest) hs hact

/-- Settles O9: a body of a cycle always answers, and of the other actions none moves STATUS out of
Faulted or Quit. -/
theorem endedRunHasNoCycle : Obligations.EndedRunHasNoCycle := by
  unfold Obligations.EndedRunHasNoCycle
  refine ⟨fun rnd s hs => ?_, fun rnd s t h => (cycle_next h).1, fun s t hs h => step_status_of_ended hs h⟩
  rw [cycle_of_running rnd hs]
  exact runCycle_answers (s.latchRnd rnd)

end Sys2Proof.Machine
end

section
/-! SUPPORT. What an instruction that ends in a skip answers, and the skips on registers (R120, R124 to R127). -/

namespace Sys2Proof.Machine

/-! ### The meanings of the register skips, as the condition each skips on -/

theorem exec_seImm (x : Nibble) (nn : Byte) (s : State) :
    exec (.seImm x nn) s = .next (s.skipIf (s.reg x == nn)) := rfl

theorem exec_sneImm (x : Nibble) (nn : Byte) (s : State) :
    exec (.sneImm x nn) s = .next (s.skipIf (s.reg x != nn)) := rfl

theorem exec_seReg (x y : Nibble) (s : State) :
    exec (.seReg x y) s = .next (s.skipIf (s.reg x == s.reg y)) := rfl

theorem exec_sneReg (x y : Nibble) (s : State) :
    exec (.sneReg x y) s = .next (s.skipIf (s.reg x != s.reg y)) := rfl

/-! ### A skip -/

theorem State.skipIf_onlyPc (s : State) (c : Bool) : OnlyPc s (s.skipIf c) :=
  ⟨rfl, fun _ => rfl⟩

theorem State.skipIf_pc_of_taken (s : State) {c : Bool} (hc : c = true) : (s.skipIf c).pc = s.pc + 4 := by
  rw [State.skipIf_pc, if_pos hc]
  exact word_add_two_two s.pc

theorem State.skipIf_pc_of_not_taken (s : State) {c : Bool} (hc : c = false) :
    (s.skipIf c).pc = s.pc + 2 := by
  simp [hc]

/-- An instruction that ends in a skip moves PC alone, over one word where its condition holds; `P` and `Q`
are the condition and its complement as a statement writes them. -/
theorem exec_skip_spec {i : Instr} {s : State} {c : Bool} {P Q : Prop}
    (hexec : exec i s = .next (s.skipIf c)) (htaken : P → c = true) (hnot : Q → c = false) :
    ∃ t, exec i s = .next t ∧ OnlyPc s t ∧ (P → t.pc = s.pc + 4) ∧ (Q → t.pc = s.pc + 2) :=
  ⟨_, hexec, s.skipIf_onlyPc c, fun h => s.skipIf_pc_of_taken (htaken h),
    fun h => s.skipIf_pc_of_not_taken (hnot h)⟩

/-- Settles O25: each of the four is a skip on an equality test or on its negation. -/
theorem registerSkipsPassOverOneWord : Obligations.RegisterSkipsPassOverOneWord := by
  unfold Obligations.RegisterSkipsPassOverOneWord
  intro s x y nn
  refine ⟨?seImm, ?sneImm, ?seReg, ?sneReg⟩
  case seImm => exact exec_skip_spec (exec_seImm x nn s) beq_iff_eq.mpr beq_eq_false_iff_ne.mpr
  case sneImm => exact exec_skip_spec (exec_sneImm x nn s) bne_iff_ne.mpr bne_eq_false_iff_eq.mpr
  case seReg => exact exec_skip_spec (exec_seReg x y s) beq_iff_eq.mpr beq_eq_false_iff_ne.mpr
  case sneReg => exact exec_skip_spec (exec_sneReg x y s) bne_iff_ne.mpr bne_eq_false_iff_eq.mpr

end Sys2Proof.Machine
end

section
/-! SUPPORT. What an instruction that writes one register and advances answers, and the load, the copy and the
add of an immediate (R141, R142, R143). -/

namespace Sys2Proof.Machine

/-! ### The meanings of the instructions, as the value each writes to V[X] -/

theorem exec_ldImm (x : Nibble) (nn : Byte) (s : State) :
    exec (.ldImm x nn) s = .next (s.advance.setReg x nn) := rfl

theorem exec_addImm (x : Nibble) (nn : Byte) (s : State) :
    exec (.addImm x nn) s = .next (s.advance.setReg x (addWithCarry (s.reg x) nn).1) := rfl

theorem exec_ldReg (x y : Nibble) (s : State) :
    exec (.ldReg x y) s = .next (s.advance.setReg x (s.reg y)) := rfl

/-! ### One register written after the advance -/

theorem State.advance_setReg_onlyRegsPc (s : State) (x : Nibble) (b : Byte) :
    OnlyRegsPc s (s.advance.setReg x b) :=
  ⟨rfl, fun _ => rfl⟩

theorem State.advance_setReg_regsKeptBut (s : State) (x : Nibble) (b : Byte) :
    RegsKeptBut s (s.advance.setReg x b) x :=
  fun _ hr => s.advance.reg_setReg_ne b hr

/-- An instruction that writes `b` to V[X] and advances keeps everything else, VF among it where X is not F. -/
theorem exec_setReg_spec {i : Instr} {s : State} {x : Nibble} {b : Byte}
    (hexec : exec i s = .next (s.advance.setReg x b)) :
    ∃ t, exec i s = .next t ∧ t.reg x = b ∧ RegsKeptBut s t x ∧ t.pc = s.pc + 2 ∧ OnlyRegsPc s t :=
  ⟨_, hexec, s.advance.reg_setReg_same x b, s.advance_setReg_regsKeptBut x b, rfl,
    s.advance_setReg_onlyRegsPc x b⟩

/-- Settles O26: both write one register after the advance. -/
theorem loadAndCopyWriteOneRegister : Obligations.LoadAndCopyWriteOneRegister := by
  unfold Obligations.LoadAndCopyWriteOneRegister
  intro s x y nn
  exact ⟨exec_setReg_spec (exec_ldImm x nn s), exec_setReg_spec (exec_ldReg x y s)⟩

/-! ### The sum -/

/-- The carry out of bit 7 is not part of the result (R142, R147). -/
theorem addWithCarry_fst_toNat (a b : Byte) :
    (addWithCarry a b).1.toNat = (a.toNat + b.toNat) % 256 :=
  BitVec.toNat_ofNat (a.toNat + b.toNat) 8

/-- Settles O27: the register written is the low 8 bits of the sum, and the carry is written nowhere. -/
theorem addImmediateWrapsWithoutFlag : Obligations.AddImmediateWrapsWithoutFlag := by
  unfold Obligations.AddImmediateWrapsWithoutFlag
  intro s x nn
  obtain ⟨t, hexec, hx, hframe⟩ := exec_setReg_spec (exec_addImm x nn s)
  have hsum : (t.reg x).toNat = ((s.reg x).toNat + nn.toNat) % 256 := by
    rw [hx, addWithCarry_fst_toNat]
  exact ⟨t, hexec, hsum, hframe⟩

end Sys2Proof.Machine
end

section
/-! SUPPORT. What an instruction that writes I and advances answers, and the two loads of I (R170, R174). -/

namespace Sys2Proof.Machine

/-! ### The meanings of the instructions, as the address each writes to I -/

theorem exec_ldIndex (nnn : Addr12) (s : State) :
    exec (.ldIndex nnn) s = .next (s.advance.writeIndex (addrOfImm nnn)) := rfl

theorem exec_ldGlyph (x : Nibble) (s : State) :
    exec (.ldGlyph x) s = .next (s.advance.writeIndex (glyphAddr (s.reg x))) := rfl

/-! ### The addresses -/

/-- The immediate is widened with zeros, so its value is kept (R170). -/
theorem addrOfImm_toNat (nnn : Addr12) : (addrOfImm nnn).toNat = nnn.toNat :=
  BitVec.toNat_setWidth_of_le (by decide)

/-- Sixteen glyphs of five bytes end far below 2^16, so the address in I is exact (R54, R174). -/
theorem glyphAddr_toNat (b : Byte) : (glyphAddr b).toNat = 5 * (b.toNat % 16) := by
  have hsize : Config.glyphSize = 5 := rfl
  have hfits : b.toNat % 16 * 5 < 2 ^ 16 := by omega
  rw [glyphAddr, hsize, BitVec.toNat_ofNat, Nat.mod_eq_of_lt hfits, Nat.mul_comm]

/-! ### I written after the advance -/

/-- An instruction that writes `w` to I and advances keeps every other element and every byte. -/
theorem exec_writeIndex_spec {i : Instr} {s : State} {w : Word} {n : Nat}
    (hexec : exec i s = .next (s.advance.writeIndex w)) (hw : w.toNat = n) :
    ∃ t, exec i s = .next t ∧ t.i.toNat = n ∧ t.pc = s.pc + 2 ∧
      t = { s with i := t.i, pc := t.pc } ∧ SameBytes s t :=
  ⟨_, hexec, hw, rfl, rfl, fun _ => rfl⟩

/-- Settles O33: both write I after the advance, the immediate widened and the glyph's address. -/
theorem indexLoadsWriteIndexAlone : Obligations.IndexLoadsWriteIndexAlone := by
  unfold Obligations.IndexLoadsWriteIndexAlone
  intro s x nnn
  exact ⟨exec_writeIndex_spec (exec_ldIndex nnn s) (addrOfImm_toNat nnn),
    exec_writeIndex_spec (exec_ldGlyph x s) (glyphAddr_toNat (s.reg x))⟩

end Sys2Proof.Machine
end

section
/-! SUPPORT. The screen clear, as the advance and the display write it ends in (R192). -/

namespace Sys2Proof.Machine

/-! ### The meaning of the instruction -/

theorem exec_cls (s : State) :
    exec .cls s = .next (s.advance.writeDisplay Framebuffer.clear) := rfl

/-! ### The display written after the advance -/

theorem State.advance_writeDisplay_eq (s : State) (fb : Framebuffer) :
    s.advance.writeDisplay fb = { s with fb := fb, dirty := true, pc := s.pc + 2 } := rfl

theorem State.advance_writeDisplay_sameBytes (s : State) (fb : Framebuffer) :
    SameBytes s (s.advance.writeDisplay fb) :=
  fun _ => rfl

/-- Settles O43: 00E0 writes the cleared framebuffer after the advance, and the write sets DIRTY. -/
theorem clearScreenClearsEveryCell : Obligations.ClearScreenClearsEveryCell := by
  unfold Obligations.ClearScreenClearsEveryCell
  intro s
  have hcells (x y : Nat) : (s.advance.writeDisplay Framebuffer.clear).fb.cell x y = false := by
    rw [State.writeDisplay_fb, Framebuffer.cell_clear]
  exact ⟨_, exec_cls s, hcells, s.advance.writeDisplay_dirty Framebuffer.clear, s.advance_pc,
    s.advance_writeDisplay_eq Framebuffer.clear, s.advance_writeDisplay_sameBytes Framebuffer.clear⟩

end Sys2Proof.Machine
end

section
/-! SUPPORT. The dispatch of R74, one equation per opcode class; encoding and decoding as inverses; the rows a
word can meet. -/

namespace Sys2Proof

/-! ### What the dispatch answers in each class -/

section
variable {w : Word}

theorem decodeWord_zero (h : fieldN1 w = 0x0#4) :
    decodeWord w = if w = 0x00E0#16 then some .cls else if w = 0x00EE#16 then some .ret else none := by
  simp [decodeWord, h]

theorem decodeWord_jp (h : fieldN1 w = 0x1#4) : decodeWord w = some (.jp (fieldNNN w)) := by
  simp [decodeWord, h]

theorem decodeWord_call (h : fieldN1 w = 0x2#4) : decodeWord w = some (.call (fieldNNN w)) := by
  simp [decodeWord, h]

theorem decodeWord_seImm (h : fieldN1 w = 0x3#4) :
    decodeWord w = some (.seImm (fieldX w) (fieldNN w)) := by
  simp [decodeWord, h]

theorem decodeWord_sneImm (h : fieldN1 w = 0x4#4) :
    decodeWord w = some (.sneImm (fieldX w) (fieldNN w)) := by
  simp [decodeWord, h]

theorem decodeWord_seReg (h : fieldN1 w = 0x5#4) :
    decodeWord w = if fieldN w = 0x0#4 then some (.seReg (fieldX w) (fieldY w)) else none := by
  simp [decodeWord, h]

theorem decodeWord_ldImm (h : fieldN1 w = 0x6#4) :
    decodeWord w = some (.ldImm (fieldX w) (fieldNN w)) := by
  simp [decodeWord, h]

theorem decodeWord_addImm (h : fieldN1 w = 0x7#4) :
    decodeWord w = some (.addImm (fieldX w) (fieldNN w)) := by
  simp [decodeWord, h]

theorem decodeWord_arith (h : fieldN1 w = 0x8#4) :
    decodeWord w = decodeArith (fieldX w) (fieldY w) (fieldN w) := by
  simp [decodeWord, h]

theorem decodeWord_sneReg (h : fieldN1 w = 0x9#4) :
    decodeWord w = if fieldN w = 0x0#4 then some (.sneReg (fieldX w) (fieldY w)) else none := by
  simp [decodeWord, h]

theorem decodeWord_ldIndex (h : fieldN1 w = 0xA#4) : decodeWord w = some (.ldIndex (fieldNNN w)) := by
  simp [decodeWord, h]

theorem decodeWord_jpOffset (h : fieldN1 w = 0xB#4) : decodeWord w = some (.jpOffset (fieldNNN w)) := by
  simp [decodeWord, h]

theorem decodeWord_rnd (h : fieldN1 w = 0xC#4) :
    decodeWord w = some (.rnd (fieldX w) (fieldNN w)) := by
  simp [decodeWord, h]

theorem decodeWord_drw (h : fieldN1 w = 0xD#4) :
    decodeWord w = some (.drw (fieldX w) (fieldY w) (fieldN w)) := by
  simp [decodeWord, h]

theorem decodeWord_keys (h : fieldN1 w = 0xE#4) : decodeWord w = decodeKeys (fieldX w) (fieldNN w) := by
  simp [decodeWord, h]

theorem decodeWord_misc (h : fieldN1 w = 0xF#4) : decodeWord w = decodeMisc (fieldX w) (fieldNN w) := by
  simp [decodeWord, h]

end

/-! ### The families on packed words -/

theorem decodeWord_packXYN_arith (x y n : Nibble) :
    decodeWord (packXYN 0x8 x y n) = decodeArith x y n := by
  rw [decodeWord_arith (fieldN1_packXYN 0x8 x y n), fieldX_packXYN, fieldY_packXYN, fieldN_packXYN]

theorem decodeWord_packXNN_keys (x : Nibble) (nn : Byte) :
    decodeWord (packXNN 0xE x nn) = decodeKeys x nn := by
  rw [decodeWord_keys (fieldN1_packXNN 0xE x nn), fieldX_packXNN, fieldNN_packXNN]

theorem decodeWord_packXNN_misc (x : Nibble) (nn : Byte) :
    decodeWord (packXNN 0xF x nn) = decodeMisc x nn := by
  rw [decodeWord_misc (fieldN1_packXNN 0xF x nn), fieldX_packXNN, fieldNN_packXNN]

/-- Every constructor's word lies in its own class, and its fields are the operands. -/
theorem decodeWord_encode (i : Instr) : decodeWord (encode i) = some i := by
  cases i with
  | cls => exact decodeWord_zero (by decide)
  | ret => exact decodeWord_zero (by decide)
  | jp nnn => simp [encode, decodeWord_jp]
  | call nnn => simp [encode, decodeWord_call]
  | seImm x nn => simp [encode, decodeWord_seImm]
  | sneImm x nn => simp [encode, decodeWord_sneImm]
  | seReg x y => simp [encode, decodeWord_seReg]
  | ldImm x nn => simp [encode, decodeWord_ldImm]
  | addImm x nn => simp [encode, decodeWord_addImm]
  | ldReg x y => exact decodeWord_packXYN_arith x y 0x0
  | orReg x y => exact decodeWord_packXYN_arith x y 0x1
  | andReg x y => exact decodeWord_packXYN_arith x y 0x2
  | xorReg x y => exact decodeWord_packXYN_arith x y 0x3
  | addReg x y => exact decodeWord_packXYN_arith x y 0x4
  | subReg x y => exact decodeWord_packXYN_arith x y 0x5
  | shr x y => exact decodeWord_packXYN_arith x y 0x6
  | subnReg x y => exact decodeWord_packXYN_arith x y 0x7
  | shl x y => exact decodeWord_packXYN_arith x y 0xE
  | sneReg x y => simp [encode, decodeWord_sneReg]
  | ldIndex nnn => simp [encode, decodeWord_ldIndex]
  | jpOffset nnn => simp [encode, decodeWord_jpOffset]
  | rnd x nn => simp [encode, decodeWord_rnd]
  | drw x y n => simp [encode, decodeWord_drw]
  | skp x => exact decodeWord_packXNN_keys x 0x9E
  | sknp x => exact decodeWord_packXNN_keys x 0xA1
  | ldFromDelay x => exact decodeWord_packXNN_misc x 0x07
  | ldKey x => exact decodeWord_packXNN_misc x 0x0A
  | ldDelay x => exact decodeWord_packXNN_misc x 0x15
  | ldSound x => exact decodeWord_packXNN_misc x 0x18
  | addIndex x => exact decodeWord_packXNN_misc x 0x1E
  | ldGlyph x => exact decodeWord_packXNN_misc x 0x29
  | storeBcd x => exact decodeWord_packXNN_misc x 0x33
  | storeRegs x => exact decodeWord_packXNN_misc x 0x55
  | loadRegs x => exact decodeWord_packXNN_misc x 0x65

theorem decodeBytes_encodeBytes (i : Instr) (rest : List Byte) :
    decodeBytes (encodeBytes i ++ rest) = .ok (i, rest) := by
  have hword := decodeBytes_word (encode i) rest
  rw [decodeWord_encode] at hword
  exact hword

/-- Settles O2: the dispatch finds every constructor's word in its class, and the two bytes are that word. -/
theorem encodeThenDecodeGivesTheInstruction : Obligations.EncodeThenDecodeGivesTheInstruction := by
  unfold Obligations.EncodeThenDecodeGivesTheInstruction
  exact fun i rest => ⟨decodeWord_encode i, decodeBytes_encodeBytes i rest⟩

/-! ### From the word to the instruction and back -/

theorem packNNN_of_class {w : Word} {c : Nibble} (h : fieldN1 w = c) : packNNN c (fieldNNN w) = w := by
  rw [← h, packNNN_fields]

theorem packXNN_of_class {w : Word} {c : Nibble} (h : fieldN1 w = c) :
    packXNN c (fieldX w) (fieldNN w) = w := by
  rw [← h, packXNN_fields]

theorem packXYN_of_class {w : Word} {c : Nibble} (h : fieldN1 w = c) :
    packXYN c (fieldX w) (fieldY w) (fieldN w) = w := by
  rw [← h, packXYN_fields]

/-- A class with no fixed nibble but its first answers one constructor. -/
theorem encode_of_some {w : Word} {i j : Instr} (hw : decodeWord w = some i) (hd : decodeWord w = some j)
    (hj : encode j = w) : encode i = w := by
  rw [hd] at hw
  exact Option.some.inj hw ▸ hj

theorem nibble_cases : ∀ n : Nibble,
    n = 0x0 ∨ n = 0x1 ∨ n = 0x2 ∨ n = 0x3 ∨ n = 0x4 ∨ n = 0x5 ∨ n = 0x6 ∨ n = 0x7 ∨
    n = 0x8 ∨ n = 0x9 ∨ n = 0xA ∨ n = 0xB ∨ n = 0xC ∨ n = 0xD ∨ n = 0xE ∨ n = 0xF := by decide

theorem encode_of_decodeWord_zero {w : Word} {i : Instr} (hclass : fieldN1 w = 0x0#4)
    (hw : decodeWord w = some i) : encode i = w := by
  rw [decodeWord_zero hclass] at hw
  rcases some_of_ite hw with ⟨rfl, hi⟩ | ⟨-, hw⟩
  · cases hi; rfl
  · rcases some_of_ite hw with ⟨rfl, hi⟩ | ⟨-, hi⟩ <;> cases hi
    rfl

/-- A class whose last nibble is fixed at 0. -/
theorem encode_of_ite_fieldN {w : Word} {i j : Instr} {c : Nibble} (hclass : fieldN1 w = c)
    (hj : encode j = packXYN c (fieldX w) (fieldY w) 0x0#4)
    (hw : (if fieldN w = 0x0#4 then some j else none) = some i) : encode i = w := by
  rcases some_of_ite hw with ⟨hn, hi⟩ | ⟨-, hi⟩ <;> cases hi
  rw [hj, ← hn, packXYN_of_class hclass]

/-- The instruction a word decodes to, packed again, is the word: by the sixteen classes. -/
theorem encode_of_decodeWord {w : Word} {i : Instr} (hw : decodeWord w = some i) : encode i = w := by
  rcases nibble_cases (fieldN1 w) with
    h | h | h | h | h | h | h | h | h | h | h | h | h | h | h | h
  · exact encode_of_decodeWord_zero h hw
  · exact encode_of_some hw (decodeWord_jp h) (packNNN_of_class h)
  · exact encode_of_some hw (decodeWord_call h) (packNNN_of_class h)
  · exact encode_of_some hw (decodeWord_seImm h) (packXNN_of_class h)
  · exact encode_of_some hw (decodeWord_sneImm h) (packXNN_of_class h)
  · exact encode_of_ite_fieldN h rfl (decodeWord_seReg h ▸ hw)
  · exact encode_of_some hw (decodeWord_ldImm h) (packXNN_of_class h)
  · exact encode_of_some hw (decodeWord_addImm h) (packXNN_of_class h)
  · exact (encode_of_decodeArith (decodeWord_arith h ▸ hw)).trans (packXYN_of_class h)
  · exact encode_of_ite_fieldN h rfl (decodeWord_sneReg h ▸ hw)
  · exact encode_of_some hw (decodeWord_ldIndex h) (packNNN_of_class h)
  · exact encode_of_some hw (decodeWord_jpOffset h) (packNNN_of_class h)
  · exact encode_of_some hw (decodeWord_rnd h) (packXNN_of_class h)
  · exact encode_of_some hw (decodeWord_drw h) (packXYN_of_class h)
  · exact (encode_of_decodeKeys (decodeWord_keys h ▸ hw)).trans (packXNN_of_class h)
  · exact (encode_of_decodeMisc (decodeWord_misc h ▸ hw)).trans (packXNN_of_class h)

/-- Settles O3: in each class the word is the packing of its own fields. -/
theorem decodeThenEncodeGivesTheWord : Obligations.DecodeThenEncodeGivesTheWord := by
  unfold Obligations.DecodeThenEncodeGivesTheWord
  exact fun w i hw => encode_of_decodeWord hw

/-! ### The rows a word meets -/

/-- Two rows that one word meets agree on every bit both fix. -/
theorem agree_of_meetsRow {w : Word} {r r' : Word × Word} (h : meetsRow w r = true)
    (h' : meetsRow w r' = true) : r.2 &&& (r.1 &&& r'.1) = r'.2 &&& (r.1 &&& r'.1) := by
  have hr : w &&& r.1 = r.2 := beq_iff_eq.mp h
  have hr' : w &&& r'.1 = r'.2 := beq_iff_eq.mp h'
  rw [← hr, ← hr']
  ext k
  simp only [BitVec.getElem_and]
  cases w[k] <;> cases r.1[k] <;> cases r'.1[k] <;> rfl

theorem eq_of_meetsRow {w : Word} {r r' : Word × Word} (hr : r ∈ opcodeRows) (hr' : r' ∈ opcodeRows)
    (h : meetsRow w r = true) (h' : meetsRow w r' = true) : r = r' := by
  by_contra hne
  have hsymm : Std.Symm fun r r' : Word × Word => r.2 &&& (r.1 &&& r'.1) ≠ r'.2 &&& (r.1 &&& r'.1) :=
    ⟨fun a b hab => BitVec.and_comm a.1 b.1 ▸ hab.symm⟩
  exact opcodeRows_apart.forall hr hr' hne (agree_of_meetsRow h h')

/-- An instruction's word meets the instruction's own row. -/
theorem encode_meetsRow (i : Instr) : Laws.EncodesRow.Statement i := by
  cases i with
  | cls => exact Laws.EncodesRow.cls
  | ret => exact Laws.EncodesRow.ret
  | jp nnn => exact Laws.EncodesRow.jp nnn
  | call nnn => exact Laws.EncodesRow.call nnn
  | seImm x nn => exact Laws.EncodesRow.seImm x nn
  | sneImm x nn => exact Laws.EncodesRow.sneImm x nn
  | seReg x y => exact Laws.EncodesRow.seReg x y
  | ldImm x nn => exact Laws.EncodesRow.ldImm x nn
  | addImm x nn => exact Laws.EncodesRow.addImm x nn
  | ldReg x y => exact Laws.EncodesRow.ldReg x y
  | orReg x y => exact Laws.EncodesRow.orReg x y
  | andReg x y => exact Laws.EncodesRow.andReg x y
  | xorReg x y => exact Laws.EncodesRow.xorReg x y
  | addReg x y => exact Laws.EncodesRow.addReg x y
  | subReg x y => exact Laws.EncodesRow.subReg x y
  | shr x y => exact Laws.EncodesRow.shr x y
  | subnReg x y => exact Laws.EncodesRow.subnReg x y
  | shl x y => exact Laws.EncodesRow.shl x y
  | sneReg x y => exact Laws.EncodesRow.sneReg x y
  | ldIndex nnn => exact Laws.EncodesRow.ldIndex nnn
  | jpOffset nnn => exact Laws.EncodesRow.jpOffset nnn
  | rnd x nn => exact Laws.EncodesRow.rnd x nn
  | drw x y n => exact Laws.EncodesRow.drw x y n
  | skp x => exact Laws.EncodesRow.skp x
  | sknp x => exact Laws.EncodesRow.sknp x
  | ldFromDelay x => exact Laws.EncodesRow.ldFromDelay x
  | ldKey x => exact Laws.EncodesRow.ldKey x
  | ldDelay x => exact Laws.EncodesRow.ldDelay x
  | ldSound x => exact Laws.EncodesRow.ldSound x
  | addIndex x => exact Laws.EncodesRow.addIndex x
  | ldGlyph x => exact Laws.EncodesRow.ldGlyph x
  | storeBcd x => exact Laws.EncodesRow.storeBcd x
  | storeRegs x => exact Laws.EncodesRow.storeRegs x
  | loadRegs x => exact Laws.EncodesRow.loadRegs x

theorem meetsRow_of_decodeWord {w : Word} {i : Instr} (hw : decodeWord w = some i) :
    ∃ row, opcodeRows[rowIndex i]? = some row ∧ meetsRow w row = true :=
  encode_of_decodeWord hw ▸ encode_meetsRow i

/-! ### A word that meets a row decodes -/

/-- Every word that meets the row is an instruction. -/
def RowDecodes (row : Word × Word) : Prop := ∀ w, meetsRow w row = true → ∃ i, decodeWord w = some i

/-- Rows with mask 0xFFFF. -/
theorem rowDecodes_word {w : Word} {i : Instr} (h : decodeWord w = some i) : RowDecodes (0xFFFF, w) := by
  intro v hv
  have hvw : v &&& BitVec.allOnes 16 = w := beq_iff_eq.mp hv
  rw [BitVec.and_allOnes] at hvw
  exact ⟨i, hvw ▸ h⟩

/-- Rows with mask 0xF000. -/
theorem rowDecodes_class (c : Nibble) {j : Word → Instr}
    (h : ∀ {w : Word}, fieldN1 w = c → decodeWord w = some (j w)) :
    RowDecodes (packXYN 0xF 0x0 0x0 0x0, packXYN c 0x0 0x0 0x0) := by
  intro w hw
  obtain ⟨hc, -, -, -⟩ := (meetsRow_iff w 0xF 0x0 0x0 0x0 c 0x0 0x0 0x0).mp hw
  exact ⟨j w, h ((nibble_and_ones _).symm.trans hc)⟩

/-- Rows with mask 0xF00F. -/
theorem rowDecodes_classN (c n : Nibble) {j : Word → Instr}
    (h : ∀ {w : Word}, fieldN1 w = c → fieldN w = n → decodeWord w = some (j w)) :
    RowDecodes (packXYN 0xF 0x0 0x0 0xF, packXYN c 0x0 0x0 n) := by
  intro w hw
  obtain ⟨hc, -, -, hn⟩ := (meetsRow_iff w 0xF 0x0 0x0 0xF c 0x0 0x0 n).mp hw
  exact ⟨j w, h ((nibble_and_ones _).symm.trans hc) ((nibble_and_ones _).symm.trans hn)⟩

/-- Rows with mask 0xF0FF, in a class whose dispatch `d` looks at the low byte. -/
theorem rowDecodes_classNN (c y n : Nibble) {d : Nibble → Byte → Option Instr} {j : Nibble → Instr}
    (h : ∀ {w : Word}, fieldN1 w = c → decodeWord w = d (fieldX w) (fieldNN w))
    (hd : ∀ x, d x (BitVec.ofNat 8 (y.toNat * 16 + n.toNat)) = some (j x)) :
    RowDecodes (packXYN 0xF 0x0 0xF 0xF, packXYN c 0x0 y n) := by
  intro w hw
  obtain ⟨hc, -, hy, hn⟩ := (meetsRow_iff w 0xF 0x0 0xF 0xF c 0x0 y n).mp hw
  have hclass : fieldN1 w = c := (nibble_and_ones _).symm.trans hc
  have hlow : fieldNN w = BitVec.ofNat 8 (y.toNat * 16 + n.toNat) :=
    (fieldNN_eq_iff w y n).mpr ⟨(nibble_and_ones _).symm.trans hy, (nibble_and_ones _).symm.trans hn⟩
  exact ⟨j (fieldX w), by rw [h hclass, hlow, hd]⟩

/-- A row of the 0x8 family, by its last nibble. -/
theorem rowDecodes_arith (n : Nibble) {j : Nibble → Nibble → Instr}
    (hd : ∀ x y, decodeArith x y n = some (j x y)) :
    RowDecodes (packXYN 0xF 0x0 0x0 0xF, packXYN 0x8 0x0 0x0 n) :=
  rowDecodes_classN 0x8 n (j := fun w => j (fieldX w) (fieldY w)) fun hc hn => by
    rw [decodeWord_arith hc, hn, hd]

/-- A row of the 0xF family, by its low byte. -/
theorem rowDecodes_misc (y n : Nibble) {j : Nibble → Instr}
    (hd : ∀ x, decodeMisc x (BitVec.ofNat 8 (y.toNat * 16 + n.toNat)) = some (j x)) :
    RowDecodes (packXYN 0xF 0x0 0xF 0xF, packXYN 0xF 0x0 y n) :=
  rowDecodes_classNN 0xF y n decodeWord_misc hd

/-- The rows of R74 in the table's order. -/
theorem opcodeRows_decode : ∀ row ∈ opcodeRows, RowDecodes row := by
  simp only [opcodeRows, List.cons_append, List.nil_append, List.forall_mem_cons]
  refine ⟨rowDecodes_word (i := .cls) (by decide), rowDecodes_word (i := .ret) (by decide),
    rowDecodes_class 0x1 decodeWord_jp, rowDecodes_class 0x2 decodeWord_call,
    rowDecodes_class 0x3 decodeWord_seImm, rowDecodes_class 0x4 decodeWord_sneImm,
    rowDecodes_classN 0x5 0x0 fun hc hn => (decodeWord_seReg hc).trans (if_pos hn),
    rowDecodes_class 0x6 decodeWord_ldImm, rowDecodes_class 0x7 decodeWord_addImm,
    rowDecodes_arith 0x0 fun _ _ => rfl, rowDecodes_arith 0x1 fun _ _ => rfl,
    rowDecodes_arith 0x2 fun _ _ => rfl, rowDecodes_arith 0x3 fun _ _ => rfl,
    rowDecodes_arith 0x4 fun _ _ => rfl, rowDecodes_arith 0x5 fun _ _ => rfl,
    rowDecodes_arith 0x6 fun _ _ => rfl, rowDecodes_arith 0x7 fun _ _ => rfl,
    rowDecodes_arith 0xE fun _ _ => rfl,
    rowDecodes_classN 0x9 0x0 fun hc hn => (decodeWord_sneReg hc).trans (if_pos hn),
    rowDecodes_class 0xA decodeWord_ldIndex, rowDecodes_class 0xB decodeWord_jpOffset,
    rowDecodes_class 0xC decodeWord_rnd, rowDecodes_class 0xD decodeWord_drw,
    rowDecodes_classNN 0xE 0x9 0xE decodeWord_keys fun _ => rfl,
    rowDecodes_classNN 0xE 0xA 0x1 decodeWord_keys fun _ => rfl,
    rowDecodes_misc 0x0 0x7 fun _ => rfl, rowDecodes_misc 0x0 0xA fun _ => rfl,
    rowDecodes_misc 0x1 0x5 fun _ => rfl, rowDecodes_misc 0x1 0x8 fun _ => rfl,
    rowDecodes_misc 0x1 0xE fun _ => rfl, rowDecodes_misc 0x2 0x9 fun _ => rfl,
    rowDecodes_misc 0x3 0x3 fun _ => rfl, rowDecodes_misc 0x5 0x5 fun _ => rfl,
    rowDecodes_misc 0x6 0x5 fun _ => rfl, fun _ h => absurd h List.not_mem_nil⟩

theorem decodeWord_isSome_iff_meetsRow (w : Word) :
    (∃ i, decodeWord w = some i) ↔ ∃ row ∈ opcodeRows, meetsRow w row = true := by
  constructor
  · rintro ⟨i, hi⟩
    obtain ⟨row, hrow, hmeets⟩ := meetsRow_of_decodeWord hi
    exact ⟨row, List.mem_of_getElem? hrow, hmeets⟩
  · rintro ⟨row, hrow, hmeets⟩
    exact opcodeRows_decode row hrow w hmeets

/-- Settles O4: a word decodes exactly where some row is met, and the rows are apart. -/
theorem wordIsInstructionIffExactlyOneRowMatches :
    Obligations.WordIsInstructionIffExactlyOneRowMatches := by
  unfold Obligations.WordIsInstructionIffExactlyOneRowMatches
  intro w
  refine ⟨?_, fun _ hr _ hr' h h' => eq_of_meetsRow hr hr' h h', fun i hi => meetsRow_of_decodeWord hi⟩
  rw [decodeWord_isSome_iff_meetsRow]
  constructor
  · rintro ⟨row, hrow, hmeets⟩
    exact ⟨row, ⟨hrow, hmeets⟩, fun r hr => eq_of_meetsRow hr.1 hrow hr.2 hmeets⟩
  · rintro ⟨row, hrow, -⟩
    exact ⟨row, hrow⟩

/-- Settles O1: each sample word is evaluated. -/
theorem sampleWordsDecodeToTheirRows : Obligations.SampleWordsDecodeToTheirRows := by
  unfold Obligations.SampleWordsDecodeToTheirRows
  decide

end Sys2Proof
end

section
/-! SUPPORT. The meanings of the instructions as the state each answers: those that always complete, and for those
that can fault the case that completes and the case that faults (R243). -/

namespace Sys2Proof.Machine

/-! ### Instructions that always complete -/

theorem exec_jp (nnn : Addr12) (s : State) : exec (.jp nnn) s = .next (s.jump (addrOfImm nnn)) := rfl

theorem exec_jpOffset (nnn : Addr12) (s : State) :
    exec (.jpOffset nnn) s = .next (s.jump (s.offsetTarget nnn)) := rfl

theorem exec_orReg (x y : Nibble) (s : State) :
    exec (.orReg x y) s = .next (s.advance.setReg x (s.reg x ||| s.reg y)) := rfl

theorem exec_andReg (x y : Nibble) (s : State) :
    exec (.andReg x y) s = .next (s.advance.setReg x (s.reg x &&& s.reg y)) := rfl

theorem exec_xorReg (x y : Nibble) (s : State) :
    exec (.xorReg x y) s = .next (s.advance.setReg x (s.reg x ^^^ s.reg y)) := rfl

theorem exec_rnd (x : Nibble) (nn : Byte) (s : State) :
    exec (.rnd x nn) s = .next (s.advance.setReg x (s.rnd &&& nn)) := rfl

theorem exec_addReg (x y : Nibble) (s : State) :
    exec (.addReg x y) s = .next (s.advance.setResultFlag x (addWithCarry (s.reg x) (s.reg y))) := rfl

theorem exec_subReg (x y : Nibble) (s : State) :
    exec (.subReg x y) s = .next (s.advance.setResultFlag x (subNotBorrow (s.reg x) (s.reg y))) := rfl

theorem exec_subnReg (x y : Nibble) (s : State) :
    exec (.subnReg x y) s = .next (s.advance.setResultFlag x (subNotBorrow (s.reg y) (s.reg x))) := rfl

theorem exec_shr (x y : Nibble) (s : State) :
    exec (.shr x y) s = .next (s.advance.setResultFlag x (shiftRightOut (s.shiftSource x y))) := rfl

theorem exec_shl (x y : Nibble) (s : State) :
    exec (.shl x y) s = .next (s.advance.setResultFlag x (shiftLeftOut (s.shiftSource x y))) := rfl

theorem exec_skp (x : Nibble) (s : State) : exec (.skp x) s = .next (s.skipIf (s.keyMatches x)) := rfl

theorem exec_sknp (x : Nibble) (s : State) : exec (.sknp x) s = .next (s.skipIf (!s.keyMatches x)) := rfl

theorem exec_ldFromDelay (x : Nibble) (s : State) :
    exec (.ldFromDelay x) s = .next (s.advance.setReg x s.dt) := rfl

theorem exec_ldDelay (x : Nibble) (s : State) :
    exec (.ldDelay x) s = .next (s.advance.writeDelay (s.reg x)) := rfl

theorem exec_ldSound (x : Nibble) (s : State) :
    exec (.ldSound x) s = .next (s.advance.writeSound (s.reg x)) := rfl

theorem exec_ldKey_of_some (x : Nibble) {s : State} {k : Nibble} (h : s.kde = some k) :
    exec (.ldKey x) s = .next (s.advance.setReg x (byteOfKey k)) := by
  simp [exec, execLdKey, h]

/-- The hold writes PC back as it stands (D9). -/
theorem exec_ldKey_of_none (x : Nibble) {s : State} (h : s.kde = none) :
    exec (.ldKey x) s = .next s := by
  simp only [exec, execLdKey, h]
  rfl

/-! ### The call stack -/

theorem exec_ret_of_empty {s : State} (h : s.sp = 0) :
    exec .ret s = .next (s.faulted (.stackUnderflow s.pc)) := by
  simp [exec, execRet, s.popToPc_zero h, commit, takeFault]

theorem exec_ret_of_succ {s : State} {k : Nat} (h : s.sp = k + 1) :
    exec .ret s = .next { s with sp := k, pc := s.stack.getD k 0 } := by
  simp [exec, execRet, s.popToPc_succ k h, commit]

theorem exec_call_of_full (nnn : Addr12) {s : State} (h : s.sp = s.cfg.stackDepth) :
    exec (.call nnn) s = .next (s.faulted (.stackOverflow s.pc)) := by
  simp [exec, execCall, State.push_eq, h, commit, takeFault]

theorem exec_call_of_room (nnn : Addr12) {s : State} (h : s.sp ≠ s.cfg.stackDepth) :
    exec (.call nnn) s = .next
      { s with stack := s.stack.set s.sp (s.pc + 2), sp := s.sp + 1, pc := addrOfImm nnn } := by
  simp [exec, execCall, State.push_eq, h, commit, State.jump]

/-! ### The index register -/

theorem exec_addIndex_of_fits (x : Nibble) {s : State} (h : s.i.toNat + (s.reg x).toNat ≤ 0xFFFF) :
    exec (.addIndex x) s = .next
      ((s.writeIndex (BitVec.ofNat 16 (s.i.toNat + (s.reg x).toNat))).advance.setIndexFlag
        (beyondRange (s.i.toNat + (s.reg x).toNat))) := by
  simp [exec, execAddIndex, State.setIndex_eq, Nat.not_lt.mpr h, commit]

theorem exec_addIndex_of_overflow (x : Nibble) {s : State} (h : 0xFFFF < s.i.toNat + (s.reg x).toNat) :
    exec (.addIndex x) s = .next (s.faulted (.indexOverflow s.pc)) := by
  simp [exec, execAddIndex, State.setIndex_eq, h, commit, takeFault]

/-! ### Memory -/

/-- The record of an access whose range reaches 4096 or above (R51, D15). -/
def State.rangeFault (s : State) : FaultRecord :=
  .addressOutOfRange (max s.indexAddr Config.memorySize) s.pc

theorem exec_storeBcd_of_inRange (x : Nibble) {s : State} (h : s.indexAddr + 3 ≤ Config.memorySize) :
    exec (.storeBcd x) s = .next (s.putBytes s.indexAddr (bcdDigits (s.reg x))).advance := by
  simp [exec, execStoreBcd, State.storeBytes_eq, h, commit]

theorem exec_storeBcd_of_beyond (x : Nibble) {s : State} (h : ¬s.indexAddr + 3 ≤ Config.memorySize) :
    exec (.storeBcd x) s = .next (s.faulted s.rangeFault) := by
  simp [exec, execStoreBcd, State.storeBytes_eq, h, commit, takeFault, State.rangeFault]

theorem exec_storeRegs_of_inRange (x : Nibble) {s : State}
    (h : s.indexAddr + (x.toNat + 1) ≤ Config.memorySize) :
    exec (.storeRegs x) s = .next
      ((s.putBytes s.indexAddr (s.regsUpTo x)).advance.writeIndex (s.advancedIndex x)) := by
  simp [exec, execStoreRegs, State.storeBytes_eq, h, commit]

theorem exec_storeRegs_of_beyond (x : Nibble) {s : State}
    (h : ¬s.indexAddr + (x.toNat + 1) ≤ Config.memorySize) :
    exec (.storeRegs x) s = .next (s.faulted s.rangeFault) := by
  simp [exec, execStoreRegs, State.storeBytes_eq, h, commit, takeFault, State.rangeFault]

/-- The `n` bytes from `a` on. -/
def State.bytesFrom (s : State) (a n : Nat) : List Byte := (List.range n).map fun k => s.byteAt (a + k)

@[simp] theorem State.bytesFrom_length (s : State) (a n : Nat) : (s.bytesFrom a n).length = n := by
  simp [State.bytesFrom]

@[simp] theorem State.getElem_bytesFrom (s : State) (a n k : Nat) (h : k < (s.bytesFrom a n).length) :
    (s.bytesFrom a n)[k] = s.byteAt (a + k) := by
  simp [State.bytesFrom]

theorem State.readBytes_of_inRange {s : State} {a n : Nat} (h : n = 0 ∨ a + n ≤ Config.memorySize) :
    s.readBytes a n = .ok (s.bytesFrom a n) := by
  rw [State.readBytes_eq, if_pos h, State.bytesFrom]

theorem State.readBytes_of_beyond {s : State} {a n : Nat} (h : ¬(n = 0 ∨ a + n ≤ Config.memorySize)) :
    s.readBytes a n = .error (.addressOutOfRange (max a Config.memorySize) s.pc) := by
  rw [State.readBytes_eq, if_neg h]

theorem exec_loadRegs_of_inRange (x : Nibble) {s : State}
    (h : s.indexAddr + (x.toNat + 1) ≤ Config.memorySize) :
    exec (.loadRegs x) s = .next
      ((s.advance.writeRegs (putRegs s.v 0 (s.bytesFrom s.indexAddr (x.toNat + 1)))).writeIndex
        (s.advancedIndex x)) := by
  simp [exec, execLoadRegs, regCount, State.readBytes_of_inRange (.inr h), commit]

theorem exec_loadRegs_of_beyond (x : Nibble) {s : State}
    (h : ¬s.indexAddr + (x.toNat + 1) ≤ Config.memorySize) :
    exec (.loadRegs x) s = .next (s.faulted s.rangeFault) := by
  have hbeyond : ¬(x.toNat + 1 = 0 ∨ s.indexAddr + (x.toNat + 1) ≤ Config.memorySize) := by omega
  simp [exec, execLoadRegs, regCount, State.readBytes_of_beyond hbeyond, commit, takeFault,
    State.rangeFault]

/-- The framebuffer and the collision of the sprite DXYN draws. -/
def State.drawn (s : State) (x y n : Nibble) : Framebuffer × Bool :=
  drawSprite s.fb ((s.reg x).toNat % 64) ((s.reg y).toNat % 32) (s.bytesFrom s.indexAddr n.toNat)

theorem exec_drw_of_inRange (x y : Nibble) {n : Nibble} {s : State} (h : SpriteInRange s n) :
    exec (.drw x y n) s = .next
      ((s.advance.writeDisplay (s.drawn x y n).1).setFlag (s.drawn x y n).2) := by
  simp [exec, execDrw, State.readBytes_of_inRange h, commit, State.drawn]

theorem exec_drw_of_beyond (x y : Nibble) {n : Nibble} {s : State} (h : ¬SpriteInRange s n) :
    exec (.drw x y n) s = .next (s.faulted s.rangeFault) := by
  simp [exec, execDrw, State.readBytes_of_beyond h, commit, takeFault, State.rangeFault]

end Sys2Proof.Machine
end

section
/-! SUPPORT. Which elements an instruction writes (R37), as one structure per answer: each shape of meaning meets
it, and the access matrix and the faults of R243 are read off it. -/

namespace Sys2Proof.Machine

/-- What `exec i` may have written where it answers `t` from `s`: the access matrix of R37. -/
structure Accesses (i : Instr) (s t : State) : Prop where
  display : t.fb ≠ s.fb ∨ t.dirty ≠ s.dirty → i = .cls ∨ ∃ x y n, i = .drw x y n
  memory : t.mem ≠ s.mem → (∃ x, i = .storeBcd x) ∨ ∃ x, i = .storeRegs x
  delay : t.dt ≠ s.dt → ∃ x, i = .ldDelay x
  sound : t.st ≠ s.st → ∃ x, i = .ldSound x
  stack : t.stack ≠ s.stack → ∃ nnn, i = .call nnn
  sp : t.sp ≠ s.sp → i = .ret ∨ ∃ nnn, i = .call nnn
  index : t.i ≠ s.i → (∃ nnn, i = .ldIndex nnn) ∨ (∃ x, i = .addIndex x) ∨ (∃ x, i = .ldGlyph x) ∨
    (s.cfg.lsAdvanceI = true ∧ ((∃ x, i = .storeRegs x) ∨ ∃ x, i = .loadRegs x))
  regs : ∀ r, t.reg r ≠ s.reg r → writesReg i r = true ∨ (r = flagReg ∧ writesFlag s.cfg i = true)
  pc : t.pc ≠ s.pc + 2 → setsPc i = true ∨ (isSkip i = true ∧ t.pc = s.pc + 4) ∨
    ((∃ x, i = .ldKey x) ∧ s.kde = none ∧ t = s) ∨ (canFault i = true ∧ ∃ f, t = s.faulted f)
  status : t.status ≠ s.status → canFault i = true ∧ ∃ f, t = s.faulted f
  kept : t.key = s.key ∧ t.kde = s.kde ∧ t.tdiv = s.tdiv ∧ t.cfg = s.cfg

/-! ### Shapes of meanings -/

section
variable {i : Instr} {s t : State}

/-- A fault taken writes STATUS alone. -/
theorem accesses_faulted (hi : canFault i = true) (f : FaultRecord) : Accesses i s (s.faulted f) := by
  constructor <;> simp [hi]

/-- An instruction that touches registers and PC alone is held to those two clauses. -/
theorem accesses_of_onlyRegsPc (h : OnlyRegsPc s t)
    (hregs : ∀ r, t.reg r ≠ s.reg r → writesReg i r = true ∨ (r = flagReg ∧ writesFlag s.cfg i = true))
    (hpc : t.pc ≠ s.pc + 2 → setsPc i = true ∨ (isSkip i = true ∧ t.pc = s.pc + 4)) :
    Accesses i s t := by
  obtain ⟨ht, -⟩ := h
  constructor
  case regs => exact hregs
  case pc => exact fun hne => (hpc hne).imp_right .inl
  all_goals
    rw [ht]
    simp

theorem accesses_setReg {x : Nibble} (b : Byte) (hi : writesReg i x = true) :
    Accesses i s (s.advance.setReg x b) :=
  accesses_of_onlyRegsPc (s.advance_setReg_onlyRegsPc x b)
    (fun r hr => .inl (by
      by_contra hne
      exact hr (s.advance_setReg_regsKeptBut x b r fun hrx => hne (hrx ▸ hi))))
    (fun hne => absurd rfl hne)

theorem State.advance_setResultFlag_onlyRegsPc (s : State) (x : Nibble) (p : Byte × Bool) :
    OnlyRegsPc s (s.advance.setResultFlag x p) :=
  ⟨rfl, fun _ => rfl⟩

theorem State.advance_setResultFlag_regsKeptButFlag (s : State) (x : Nibble) (p : Byte × Bool) :
    RegsKeptButFlag s (s.advance.setResultFlag x p) x := by
  intro r hx hflag
  rw [State.reg_setResultFlag, if_neg hflag, if_neg hx, State.reg_advance]

theorem accesses_setResultFlag {x : Nibble} (p : Byte × Bool) (hi : writesReg i x = true)
    (hflag : writesFlag s.cfg i = true) : Accesses i s (s.advance.setResultFlag x p) :=
  accesses_of_onlyRegsPc (s.advance_setResultFlag_onlyRegsPc x p)
    (fun r hr => by
      by_cases hrf : r = flagReg
      · exact .inr ⟨hrf, hflag⟩
      · refine .inl ?_
        by_contra hne
        exact hr (s.advance_setResultFlag_regsKeptButFlag x p r (fun hrx => hne (hrx ▸ hi)) hrf))
    (fun hne => absurd rfl hne)

theorem accesses_skipIf (c : Bool) (hi : isSkip i = true) : Accesses i s (s.skipIf c) :=
  accesses_of_onlyRegsPc ⟨rfl, fun _ => rfl⟩ (fun _ hr => absurd rfl hr) fun hne => by
    cases c with
    | true => exact .inr ⟨hi, s.skipIf_pc_of_taken rfl⟩
    | false => exact absurd (s.skipIf_pc_of_not_taken rfl) hne

theorem accesses_jump (w : Word) (hi : setsPc i = true) : Accesses i s (s.jump w) :=
  accesses_of_onlyRegsPc ⟨rfl, fun _ => rfl⟩ (fun _ hr => absurd rfl hr) fun _ => .inl hi

end

/-! ### The instructions one by one -/

theorem accesses_cls (s : State) : Accesses .cls s (s.advance.writeDisplay Framebuffer.clear) := by
  constructor <;> simp

theorem accesses_writeIndex {i : Instr} (s : State) (w : Word)
    (hi : (∃ nnn, i = .ldIndex nnn) ∨ ∃ x, i = .ldGlyph x) : Accesses i s (s.advance.writeIndex w) := by
  constructor
  case index => exact fun _ => hi.imp_right fun h => .inr (.inl h)
  all_goals simp

theorem accesses_ldDelay (x : Nibble) (s : State) :
    Accesses (.ldDelay x) s (s.advance.writeDelay (s.reg x)) := by
  constructor <;> simp

theorem accesses_ldSound (x : Nibble) (s : State) :
    Accesses (.ldSound x) s (s.advance.writeSound (s.reg x)) := by
  constructor <;> simp

theorem accesses_ldKey_of_none (x : Nibble) {s : State} (h : s.kde = none) : Accesses (.ldKey x) s s := by
  constructor <;> simp [h]

theorem accesses_ret_of_succ (s : State) (k : Nat) :
    Accesses .ret s { s with sp := k, pc := s.stack.getD k 0 } := by
  constructor <;> simp [State.reg, setsPc]

theorem accesses_call_of_room (nnn : Addr12) (s : State) :
    Accesses (.call nnn) s
      { s with stack := s.stack.set s.sp (s.pc + 2), sp := s.sp + 1, pc := addrOfImm nnn } := by
  constructor <;> simp [State.reg, setsPc]

theorem accesses_addIndex_of_fits (x : Nibble) (s : State) (w : Word) (f : Bool) :
    Accesses (.addIndex x) s ((s.writeIndex w).advance.setIndexFlag f) := by
  constructor
  case regs =>
    intro r hr
    rw [State.reg_setIndexFlag] at hr
    by_cases hflag : s.cfg.fx1eVf = true ∧ r = flagReg
    · exact .inr ⟨hflag.2, hflag.1⟩
    · exact absurd (if_neg hflag) hr
  all_goals simp

theorem State.lsAdvanceI_of_advancedIndex_ne (s : State) {x : Nibble} (h : s.advancedIndex x ≠ s.i) :
    s.cfg.lsAdvanceI = true := by
  by_contra hoff
  exact h (if_neg hoff)

theorem accesses_storeBcd_of_inRange (x : Nibble) (s : State) (a : Nat) (bs : List Byte) :
    Accesses (.storeBcd x) s (s.putBytes a bs).advance := by
  rw [State.putBytes_eq]
  constructor <;> simp [State.reg]

theorem accesses_storeRegs_of_inRange (x : Nibble) (s : State) (a : Nat) (bs : List Byte) :
    Accesses (.storeRegs x) s ((s.putBytes a bs).advance.writeIndex (s.advancedIndex x)) := by
  rw [State.putBytes_eq]
  constructor
  case index => exact fun hne => .inr (.inr (.inr ⟨s.lsAdvanceI_of_advancedIndex_ne hne, .inl ⟨x, rfl⟩⟩))
  all_goals simp [State.reg]

theorem accesses_loadRegs_of_inRange (x : Nibble) (s : State) (bs : List Byte)
    (h : bs.length = x.toNat + 1) :
    Accesses (.loadRegs x) s
      ((s.advance.writeRegs (putRegs s.v 0 bs)).writeIndex (s.advancedIndex x)) := by
  constructor
  case index => exact fun hne => .inr (.inr (.inr ⟨s.lsAdvanceI_of_advancedIndex_ne hne, .inr ⟨x, rfl⟩⟩))
  case regs =>
    intro r hr
    refine .inl (decide_eq_true ?_)
    by_contra hle
    exact hr (s.reg_writeRegs_putRegs bs r (by omega))
  all_goals simp

theorem accesses_drw_of_inRange (x y n : Nibble) (s : State) (d : Framebuffer × Bool) :
    Accesses (.drw x y n) s ((s.advance.writeDisplay d.1).setFlag d.2) := by
  constructor <;> simp [State.reg_setFlag, writesFlag]

/-! ### Every instruction -/

/-- What an instruction answers is known where its meaning is. -/
theorem accesses_of_exec {i : Instr} {s t u : State} (hexec : exec i s = .next u) (ha : Accesses i s u)
    (h : exec i s = .next t) : Accesses i s t := by
  rw [hexec] at h
  cases h
  exact ha

theorem exec_accesses {i : Instr} {s t : State} (h : exec i s = .next t) : Accesses i s t := by
  cases i with
  | cls => exact accesses_of_exec (exec_cls s) (accesses_cls s) h
  | ret =>
    cases hsp : s.sp with
    | zero => exact accesses_of_exec (exec_ret_of_empty hsp) (accesses_faulted rfl _) h
    | succ k => exact accesses_of_exec (exec_ret_of_succ hsp) (accesses_ret_of_succ s k) h
  | jp nnn => exact accesses_of_exec (exec_jp nnn s) (accesses_jump _ rfl) h
  | call nnn =>
    by_cases hsp : s.sp = s.cfg.stackDepth
    · exact accesses_of_exec (exec_call_of_full nnn hsp) (accesses_faulted rfl _) h
    · exact accesses_of_exec (exec_call_of_room nnn hsp) (accesses_call_of_room nnn s) h
  | seImm x nn => exact accesses_of_exec (exec_seImm x nn s) (accesses_skipIf _ rfl) h
  | sneImm x nn => exact accesses_of_exec (exec_sneImm x nn s) (accesses_skipIf _ rfl) h
  | seReg x y => exact accesses_of_exec (exec_seReg x y s) (accesses_skipIf _ rfl) h
  | ldImm x nn => exact accesses_of_exec (exec_ldImm x nn s) (accesses_setReg _ (beq_self_eq_true x)) h
  | addImm x nn => exact accesses_of_exec (exec_addImm x nn s) (accesses_setReg _ (beq_self_eq_true x)) h
  | ldReg x y => exact accesses_of_exec (exec_ldReg x y s) (accesses_setReg _ (beq_self_eq_true x)) h
  | orReg x y => exact accesses_of_exec (exec_orReg x y s) (accesses_setReg _ (beq_self_eq_true x)) h
  | andReg x y => exact accesses_of_exec (exec_andReg x y s) (accesses_setReg _ (beq_self_eq_true x)) h
  | xorReg x y => exact accesses_of_exec (exec_xorReg x y s) (accesses_setReg _ (beq_self_eq_true x)) h
  | addReg x y =>
    exact accesses_of_exec (exec_addReg x y s) (accesses_setResultFlag _ (beq_self_eq_true x) rfl) h
  | subReg x y =>
    exact accesses_of_exec (exec_subReg x y s) (accesses_setResultFlag _ (beq_self_eq_true x) rfl) h
  | shr x y =>
    exact accesses_of_exec (exec_shr x y s) (accesses_setResultFlag _ (beq_self_eq_true x) rfl) h
  | subnReg x y =>
    exact accesses_of_exec (exec_subnReg x y s) (accesses_setResultFlag _ (beq_self_eq_true x) rfl) h
  | shl x y =>
    exact accesses_of_exec (exec_shl x y s) (accesses_setResultFlag _ (beq_self_eq_true x) rfl) h
  | sneReg x y => exact accesses_of_exec (exec_sneReg x y s) (accesses_skipIf _ rfl) h
  | ldIndex nnn =>
    exact accesses_of_exec (exec_ldIndex nnn s) (accesses_writeIndex s _ (.inl ⟨nnn, rfl⟩)) h
  | jpOffset nnn => exact accesses_of_exec (exec_jpOffset nnn s) (accesses_jump _ rfl) h
  | rnd x nn => exact accesses_of_exec (exec_rnd x nn s) (accesses_setReg _ (beq_self_eq_true x)) h
  | drw x y n =>
    by_cases hn : SpriteInRange s n
    · exact accesses_of_exec (exec_drw_of_inRange x y hn) (accesses_drw_of_inRange x y n s _) h
    · exact accesses_of_exec (exec_drw_of_beyond x y hn) (accesses_faulted rfl _) h
  | skp x => exact accesses_of_exec (exec_skp x s) (accesses_skipIf _ rfl) h
  | sknp x => exact accesses_of_exec (exec_sknp x s) (accesses_skipIf _ rfl) h
  | ldFromDelay x =>
    exact accesses_of_exec (exec_ldFromDelay x s) (accesses_setReg _ (beq_self_eq_true x)) h
  | ldKey x =>
    cases hkde : s.kde with
    | none => exact accesses_of_exec (exec_ldKey_of_none x hkde) (accesses_ldKey_of_none x hkde) h
    | some k =>
      exact accesses_of_exec (exec_ldKey_of_some x hkde) (accesses_setReg _ (beq_self_eq_true x)) h
  | ldDelay x => exact accesses_of_exec (exec_ldDelay x s) (accesses_ldDelay x s) h
  | ldSound x => exact accesses_of_exec (exec_ldSound x s) (accesses_ldSound x s) h
  | addIndex x =>
    by_cases hfits : s.i.toNat + (s.reg x).toNat ≤ 0xFFFF
    · exact accesses_of_exec (exec_addIndex_of_fits x hfits) (accesses_addIndex_of_fits x s _ _) h
    · exact accesses_of_exec (exec_addIndex_of_overflow x (by omega)) (accesses_faulted rfl _) h
  | ldGlyph x => exact accesses_of_exec (exec_ldGlyph x s) (accesses_writeIndex s _ (.inr ⟨x, rfl⟩)) h
  | storeBcd x =>
    by_cases hin : s.indexAddr + 3 ≤ Config.memorySize
    · exact accesses_of_exec (exec_storeBcd_of_inRange x hin) (accesses_storeBcd_of_inRange x s _ _) h
    · exact accesses_of_exec (exec_storeBcd_of_beyond x hin) (accesses_faulted rfl _) h
  | storeRegs x =>
    by_cases hin : s.indexAddr + (x.toNat + 1) ≤ Config.memorySize
    · exact accesses_of_exec (exec_storeRegs_of_inRange x hin) (accesses_storeRegs_of_inRange x s _ _) h
    · exact accesses_of_exec (exec_storeRegs_of_beyond x hin) (accesses_faulted rfl _) h
  | loadRegs x =>
    by_cases hin : s.indexAddr + (x.toNat + 1) ≤ Config.memorySize
    · exact accesses_of_exec (exec_loadRegs_of_inRange x hin)
        (accesses_loadRegs_of_inRange x s _ (State.bytesFrom_length ..)) h
    · exact accesses_of_exec (exec_loadRegs_of_beyond x hin) (accesses_faulted rfl _) h

/-- Settles O16: the access matrix is met by every instruction. -/
theorem onlyNamedInstructionsWriteEachElement : Obligations.OnlyNamedInstructionsWriteEachElement := by
  unfold Obligations.OnlyNamedInstructionsWriteEachElement
  intro i s t h
  obtain ⟨hdisplay, hmem, hdt, hst, hstack, hsp, hi, hregs, hpc, hstatus, hkept⟩ := exec_accesses h
  exact ⟨hdisplay, hmem, hdt, hst, hstack, hsp, hi, hregs, hpc, hstatus, hkept⟩

/-! ### The faults an instruction can raise -/

/-- The one record instruction `i` can raise from `s` (R243), with its info of R240. -/
def ownFault (i : Instr) (s : State) (f : FaultRecord) : Prop :=
  (i = .ret ∧ f = .stackUnderflow s.pc) ∨
  ((∃ nnn, i = .call nnn) ∧ f = .stackOverflow s.pc) ∨
  ((∃ x, i = .addIndex x) ∧ f = .indexOverflow s.pc) ∨
  (((∃ x y n, i = .drw x y n) ∨ (∃ x, i = .storeBcd x) ∨ (∃ x, i = .storeRegs x) ∨
    (∃ x, i = .loadRegs x)) ∧ f = .addressOutOfRange (max s.indexAddr 4096) s.pc)

section
variable {i : Instr} {s t u : State} {f g : FaultRecord}

theorem faultRecord_of_exec (hexec : exec i s = .next (s.faulted g)) (h : exec i s = .next t)
    (ht : t.status = .faulted f) : f = g := by
  rw [hexec] at h
  cases h
  exact (Status.faulted.inj ht).symm

theorem not_faulted_of_exec (hexec : exec i s = .next u) (hu : u.status = .running)
    (h : exec i s = .next t) : t.status ≠ .faulted f := by
  rw [hexec] at h
  cases h
  simp [hu]

/-- The seven instructions that can fault each raise their own record. -/
theorem ownFault_of_exec (hrun : s.status = .running) (h : exec i s = .next t)
    (ht : t.status = .faulted f) : ownFault i s f := by
  have hcan : canFault i = true := ((exec_accesses h).status (by simp [hrun, ht])).1
  cases i
  case ret =>
    cases hsp : s.sp with
    | zero => exact .inl ⟨rfl, faultRecord_of_exec (exec_ret_of_empty hsp) h ht⟩
    | succ k => exact absurd ht (not_faulted_of_exec (exec_ret_of_succ hsp) hrun h)
  case call nnn =>
    by_cases hsp : s.sp = s.cfg.stackDepth
    · exact .inr (.inl ⟨⟨nnn, rfl⟩, faultRecord_of_exec (exec_call_of_full nnn hsp) h ht⟩)
    · exact absurd ht (not_faulted_of_exec (exec_call_of_room nnn hsp) hrun h)
  case addIndex x =>
    by_cases hfits : s.i.toNat + (s.reg x).toNat ≤ 0xFFFF
    · exact absurd ht (not_faulted_of_exec (exec_addIndex_of_fits x hfits) hrun h)
    · exact .inr (.inr (.inl ⟨⟨x, rfl⟩,
        faultRecord_of_exec (exec_addIndex_of_overflow x (by omega)) h ht⟩))
  case drw x y n =>
    by_cases hn : SpriteInRange s n
    · exact absurd ht (not_faulted_of_exec (exec_drw_of_inRange x y hn) hrun h)
    · exact .inr (.inr (.inr ⟨.inl ⟨x, y, n, rfl⟩,
        faultRecord_of_exec (exec_drw_of_beyond x y hn) h ht⟩))
  case storeBcd x =>
    by_cases hin : s.indexAddr + 3 ≤ Config.memorySize
    · exact absurd ht (not_faulted_of_exec (exec_storeBcd_of_inRange x hin)
        ((State.putBytes_status ..).trans hrun) h)
    · exact .inr (.inr (.inr ⟨.inr (.inl ⟨x, rfl⟩),
        faultRecord_of_exec (exec_storeBcd_of_beyond x hin) h ht⟩))
  case storeRegs x =>
    by_cases hin : s.indexAddr + (x.toNat + 1) ≤ Config.memorySize
    · exact absurd ht (not_faulted_of_exec (exec_storeRegs_of_inRange x hin)
        ((State.putBytes_status ..).trans hrun) h)
    · exact .inr (.inr (.inr ⟨.inr (.inr (.inl ⟨x, rfl⟩)),
        faultRecord_of_exec (exec_storeRegs_of_beyond x hin) h ht⟩))
  case loadRegs x =>
    by_cases hin : s.indexAddr + (x.toNat + 1) ≤ Config.memorySize
    · exact absurd ht (not_faulted_of_exec (exec_loadRegs_of_inRange x hin) hrun h)
    · exact .inr (.inr (.inr ⟨.inr (.inr (.inr ⟨x, rfl⟩)),
        faultRecord_of_exec (exec_loadRegs_of_beyond x hin) h ht⟩))
  all_goals exact nomatch hcan

end

/-- Settles O12: a fault is taken with STATUS alone changed, and its record is the instruction's own. -/
theorem instructionRaisesOnlyItsOwnKind : Obligations.InstructionRaisesOnlyItsOwnKind := by
  unfold Obligations.InstructionRaisesOnlyItsOwnKind
  intro i s t f hrun h ht
  obtain ⟨-, g, rfl⟩ := (exec_accesses h).status (by simp [hrun, ht])
  cases ht
  exact ⟨rfl, ownFault_of_exec hrun h rfl⟩

end Sys2Proof.Machine
end

section
/-! SUPPORT. The invariant: what each instruction does to memory, the call stack and PC, and that every step keeps
the limits of R5, R22, R24, R32. -/

namespace Sys2Proof.Machine

/-! ### The invariant looks at six elements -/

theorem State.Inv.of_eq {s t : State} (h : s.Inv) (hcfg : t.cfg = s.cfg) (hmem : t.mem = s.mem)
    (hstack : t.stack = s.stack) (hsp : t.sp = s.sp) (htdiv : t.tdiv = s.tdiv) (hpc : t.pc = s.pc) :
    t.Inv where
  config := hcfg ▸ h.config
  memory := by rw [hcfg, hmem]; exact h.memory
  stackLength := by rw [hcfg, hstack]; exact h.stackLength
  spBound := by rw [hcfg, hsp]; exact h.spBound
  tdivBound := by rw [hcfg, htdiv]; exact h.tdivBound
  pcBound := hpc ▸ h.pcBound
  stackBound := hstack ▸ h.stackBound

theorem construct_inv {c : Config} (h : c.WellFormed) : (State.construct c).Inv where
  config := h
  memory := Memory.nil_wellFormed
  stackLength := List.length_replicate
  spBound := Nat.zero_le _
  tdivBound := h.1
  pcBound := show (0x200 : Word).toNat ≤ 0x10FE by decide
  stackBound r hr := by
    rw [List.eq_of_mem_replicate hr]
    decide

theorem hardware_wellFormed : Config.hardware.WellFormed :=
  ⟨Nat.le_add_left 1 _, by decide, by decide⟩

/-- Settles O14: reset is the construction of a well-formed configuration. -/
theorem resetMeetsInvariant : Obligations.ResetMeetsInvariant := by
  unfold Obligations.ResetMeetsInvariant
  exact ⟨construct_inv hardware_wellFormed, fun c hc => construct_inv hc⟩

/-! ### What the stack and the stores answer -/

section
variable {s t : State} {x : Nibble} {nnn : Addr12}

theorem exec_ret_cases (h : exec .ret s = .next t) :
    (∃ f, t = s.faulted f) ∨ ∃ k, s.sp = k + 1 ∧ t = { s with sp := k, pc := s.stack.getD k 0 } := by
  cases hsp : s.sp with
  | zero =>
    rw [exec_ret_of_empty hsp] at h
    cases h
    exact .inl ⟨_, rfl⟩
  | succ k =>
    rw [exec_ret_of_succ hsp] at h
    cases h
    exact .inr ⟨k, rfl, rfl⟩

theorem exec_call_cases (h : exec (.call nnn) s = .next t) :
    (∃ f, t = s.faulted f) ∨ (s.sp ≠ s.cfg.stackDepth ∧
      t = { s with stack := s.stack.set s.sp (s.pc + 2), sp := s.sp + 1, pc := addrOfImm nnn }) := by
  by_cases hsp : s.sp = s.cfg.stackDepth
  · rw [exec_call_of_full nnn hsp] at h
    cases h
    exact .inl ⟨_, rfl⟩
  · rw [exec_call_of_room nnn hsp] at h
    cases h
    exact .inr ⟨hsp, rfl⟩

theorem exec_storeBcd_mem (h : exec (.storeBcd x) s = .next t) :
    t.mem = s.mem ∨ ∃ bs : List Byte, s.indexAddr + bs.length ≤ Config.memorySize ∧
      t.mem = (s.putBytes s.indexAddr bs).mem := by
  by_cases hin : s.indexAddr + 3 ≤ Config.memorySize
  · rw [exec_storeBcd_of_inRange x hin] at h
    cases h
    exact .inr ⟨bcdDigits (s.reg x), by rwa [bcdDigits_length], rfl⟩
  · rw [exec_storeBcd_of_beyond x hin] at h
    cases h
    exact .inl rfl

theorem exec_storeRegs_mem (h : exec (.storeRegs x) s = .next t) :
    t.mem = s.mem ∨ ∃ bs : List Byte, s.indexAddr + bs.length ≤ Config.memorySize ∧
      t.mem = (s.putBytes s.indexAddr bs).mem := by
  by_cases hin : s.indexAddr + (x.toNat + 1) ≤ Config.memorySize
  · rw [exec_storeRegs_of_inRange x hin] at h
    cases h
    exact .inr ⟨s.regsUpTo x, by rwa [State.regsUpTo_length], rfl⟩
  · rw [exec_storeRegs_of_beyond x hin] at h
    cases h
    exact .inl rfl

end

/-! ### An instruction and each limit -/

section
variable {i : Instr} {s t : State}

/-- Only FX33 and FX55 write memory, and they put bytes at addresses that exist. -/
theorem exec_mem_wellFormed (hm : Memory.WellFormed s.cfg.font s.mem) (h : exec i s = .next t) :
    Memory.WellFormed s.cfg.font t.mem := by
  have hput : t.mem = s.mem ∨ ∃ bs : List Byte, s.indexAddr + bs.length ≤ Config.memorySize ∧
      t.mem = (s.putBytes s.indexAddr bs).mem := by
    by_cases hkept : t.mem = s.mem
    · exact .inl hkept
    · rcases (exec_accesses h).memory hkept with ⟨x, rfl⟩ | ⟨x, rfl⟩
      · exact exec_storeBcd_mem h
      · exact exec_storeRegs_mem h
  rcases hput with hkept | ⟨bs, hin, hput⟩
  · rwa [hkept]
  · rw [hput]
    exact s.putBytes_wellFormed s.indexAddr bs hm hin

theorem exec_stack_length (h : exec i s = .next t) : t.stack.length = s.stack.length := by
  by_cases hkept : t.stack = s.stack
  · rw [hkept]
  · obtain ⟨nnn, rfl⟩ := (exec_accesses h).stack hkept
    rcases exec_call_cases h with ⟨f, rfl⟩ | ⟨-, rfl⟩
    · rfl
    · exact List.length_set

/-- A saved PC follows a word that was fetched, so it is at most 0x1000 (R103, R123). -/
theorem exec_stack_le (hs : ∀ r ∈ s.stack, r.toNat ≤ 0x1000) (hpc : s.pc.toNat ≤ 0xFFE)
    (h : exec i s = .next t) : ∀ r ∈ t.stack, r.toNat ≤ 0x1000 := by
  by_cases hkept : t.stack = s.stack
  · rwa [hkept]
  · obtain ⟨nnn, rfl⟩ := (exec_accesses h).stack hkept
    rcases exec_call_cases h with ⟨f, rfl⟩ | ⟨-, rfl⟩
    · exact hs
    · intro r hr
      rcases List.mem_or_eq_of_mem_set hr with hr | rfl
      · exact hs r hr
      · bv_omega

theorem exec_sp_le (hsp : s.sp ≤ s.cfg.stackDepth) (h : exec i s = .next t) :
    t.sp ≤ s.cfg.stackDepth := by
  by_cases hkept : t.sp = s.sp
  · rwa [hkept]
  · rcases (exec_accesses h).sp hkept with rfl | ⟨nnn, rfl⟩
    · rcases exec_ret_cases h with ⟨f, rfl⟩ | ⟨k, hk, rfl⟩
      · exact hsp
      · show k ≤ s.cfg.stackDepth
        omega
    · rcases exec_call_cases h with ⟨f, rfl⟩ | ⟨hne, rfl⟩
      · exact hsp
      · show s.sp + 1 ≤ s.cfg.stackDepth
        omega

/-- BNNN's target is the greatest PC there is: 0xFFF and 0xFF (R22, R128). -/
theorem offsetTarget_toNat (s : State) (nnn : Addr12) :
    (s.offsetTarget nnn).toNat = nnn.toNat + (s.jumpOffset nnn).toNat := by
  have hn := nnn.isLt
  have ho := (s.jumpOffset nnn).isLt
  rw [State.offsetTarget, BitVec.toNat_add, addrOfImm_toNat, BitVec.toNat_setWidth_of_le (by decide)]
  omega

/-- An absent entry pops as 0 (log 35). -/
theorem getD_toNat_le {l : List Word} {n : Nat} (hl : ∀ r ∈ l, r.toNat ≤ n) (k : Nat) :
    (l.getD k 0).toNat ≤ n := by
  rw [List.getD_eq_getElem?_getD]
  cases hk : l[k]? with
  | none => exact Nat.zero_le n
  | some r => exact hl r (List.mem_of_getElem? hk)

/-- An instruction that sets PC takes it from the stack or from its 12 bits and at most one register. -/
theorem setsPc_pc_le (hs : ∀ r ∈ s.stack, r.toNat ≤ 0x1000) (hpc : s.pc.toNat ≤ 0xFFE)
    (hi : setsPc i = true) (h : exec i s = .next t) : t.pc.toNat ≤ 0x10FE := by
  cases i
  case ret =>
    rcases exec_ret_cases h with ⟨f, rfl⟩ | ⟨k, -, rfl⟩
    · show s.pc.toNat ≤ 0x10FE
      omega
    · exact (getD_toNat_le hs k).trans (by decide)
  case jp nnn =>
    cases h
    have := nnn.isLt
    rw [State.jump_pc, addrOfImm_toNat]
    omega
  case call nnn =>
    rcases exec_call_cases h with ⟨f, rfl⟩ | ⟨-, rfl⟩
    · show s.pc.toNat ≤ 0x10FE
      omega
    · have := nnn.isLt
      show (addrOfImm nnn).toNat ≤ 0x10FE
      rw [addrOfImm_toNat]
      omega
  case jpOffset nnn =>
    cases h
    have hn := nnn.isLt
    have ho := (s.jumpOffset nnn).isLt
    rw [State.jump_pc, offsetTarget_toNat]
    omega
  all_goals exact nomatch hi

theorem exec_pc_le (hs : ∀ r ∈ s.stack, r.toNat ≤ 0x1000) (hpc : s.pc.toNat ≤ 0xFFE)
    (h : exec i s = .next t) : t.pc.toNat ≤ 0x10FE := by
  by_cases hadvance : t.pc = s.pc + 2
  · rw [hadvance]
    bv_omega
  · rcases (exec_accesses h).pc hadvance with hi | ⟨-, hskip⟩ | ⟨-, -, rfl⟩ | ⟨-, f, rfl⟩
    · exact setsPc_pc_le hs hpc hi h
    · rw [hskip]
      bv_omega
    · omega
    · show s.pc.toNat ≤ 0x10FE
      omega

theorem exec_inv (hs : s.Inv) (hpc : s.pc.toNat ≤ 0xFFE) (h : exec i s = .next t) : t.Inv := by
  obtain ⟨-, -, htdiv, hcfg⟩ := (exec_accesses h).kept
  exact
    { config := hcfg ▸ hs.config
      memory := hcfg ▸ exec_mem_wellFormed hs.memory h
      stackLength := by rw [exec_stack_length h, hcfg]; exact hs.stackLength
      spBound := hcfg ▸ exec_sp_le hs.spBound h
      tdivBound := by rw [htdiv, hcfg]; exact hs.tdivBound
      pcBound := exec_pc_le hs.stackBound hpc h
      stackBound := exec_stack_le hs.stackBound hpc h }

end

/-! ### A cycle and a step -/

/-- TDIV starts again where it would reach the divider (R251). -/
theorem endOfCycle_tdiv_lt {s : State} (h : s.tdiv < s.cfg.timerDiv) :
    s.endOfCycle.tdiv < s.cfg.timerDiv := by
  cases hpolicy : s.cfg.timerPolicy with
  | wallClock => simpa [State.countsInstrs, hpolicy] using h
  | instrCount =>
    rw [(s.endOfCycle_instrCount hpolicy).1]
    split_ifs <;> omega

theorem endOfCycle_inv {s : State} (h : s.Inv) : s.endOfCycle.Inv :=
  { h with tdivBound := endOfCycle_tdiv_lt h.tdivBound }

theorem cycle_inv {rnd : Byte} {s t : State} (hs : s.Inv) (h : cycle rnd s = .next t) : t.Inv := by
  obtain ⟨hrun, hbody⟩ := cycle_next h
  have hlatched : (s.latchRnd rnd).Inv := hs.of_eq rfl rfl rfl rfl rfl rfl
  rcases runCycle_cases (s := s.latchRnd rnd) hrun hbody with ⟨f, rfl⟩ | ⟨i, u, hfetch, hexec, -, rfl⟩
  · exact hlatched.of_eq rfl rfl rfl rfl rfl rfl
  · obtain ⟨hcheck, -⟩ := (State.fetchInstr_ok_iff _ i).mp hfetch
    obtain ⟨-, hpc⟩ := (State.checkFetch_ok_iff _).mp hcheck
    exact endOfCycle_inv (exec_inv hlatched hpc hexec)

theorem act_inv {a : HostAction} {s t : State} (hs : s.Inv) (h : act a s = .next t) : t.Inv := by
  rcases act_cases h with ⟨rnd, rfl, hcycle⟩ | ⟨-, ht⟩
  · exact cycle_inv hs hcycle
  · rw [ht]
    exact hs.of_eq rfl rfl rfl rfl rfl rfl

/-- Settles O13: a step is one action of the host, and every action keeps the invariant. -/
theorem stepKeepsInvariant : Obligations.StepKeepsInvariant := by
  unfold Obligations.StepKeepsInvariant
  intro s t hs h
  rcases step_cases h with ⟨-, hcycle⟩ | ⟨a, rest, -, hact⟩
  · exact cycle_inv (s := s.countDraw) (hs.of_eq rfl rfl rfl rfl rfl rfl) hcycle
  · exact act_inv (s := s.setAgenda rest) (hs.of_eq rfl rfl rfl rfl rfl rfl) hact

end Sys2Proof.Machine
end

section
/-! SUPPORT. One cycle: what its fetch answers, what follows the instruction, what a fault leaves (R100 to R106,
R242). -/

namespace Sys2Proof.Machine

/-! ### The fetch of a cycle -/

@[simp] theorem State.latchRnd_fetchInstr (s : State) (rnd : Byte) :
    (s.latchRnd rnd).fetchInstr = s.fetchInstr :=
  State.fetchInstr_congr rfl rfl rfl

@[simp] theorem State.setAgenda_fetchInstr (s : State) (rest : List HostAction) :
    (s.setAgenda rest).fetchInstr = s.fetchInstr :=
  State.fetchInstr_congr rfl rfl rfl

@[simp] theorem State.countDraw_fetchInstr (s : State) : s.countDraw.fetchInstr = s.fetchInstr :=
  State.fetchInstr_congr rfl rfl rfl

theorem State.fetchInstr_of_check_error {s : State} {f : FaultRecord} (h : s.checkFetch = .error f) :
    s.fetchInstr = .error f := by
  simp [State.fetchInstr, h]

theorem State.fetchInstr_of_unknown {s : State} (hpass : FetchPasses s)
    (h : decodeWord s.fetchWord = none) :
    s.fetchInstr = .error (.unknownOpcode s.fetchWord s.pc) := by
  simp [State.fetchInstr, s.checkFetch_ok_iff.mpr hpass, h]

/-- Two bytes decode as their word does. -/
theorem decodeWord_of_decodeBytes {hi lo : Byte} {i : Instr} (h : decodeBytes [hi, lo] = .ok (i, [])) :
    decodeWord (wordOfBytes hi lo) = some i := by
  cases hd : decodeWord (wordOfBytes hi lo) with
  | none => simp [decodeBytes, hd] at h
  | some j => simpa [decodeBytes, hd] using h

theorem State.fetchInstr_of_decodeBytes {s : State} {i : Instr} (hpass : FetchPasses s)
    (h : decodeBytes [s.byteAt s.pc.toNat, s.byteAt (s.pc.toNat + 1)] = .ok (i, [])) :
    s.fetchInstr = .ok i :=
  (s.fetchInstr_ok_iff i).mpr ⟨s.checkFetch_ok_iff.mpr hpass, decodeWord_of_decodeBytes h⟩

/-! ### The cycle after its fetch -/

/-- The end of the cycle follows an instruction that completed, and nothing follows a fault (R106, R242). -/
theorem finishCycle_of_next (t : State) :
    finishCycle (.next t) = .next (if t.status = .running then t.endOfCycle else t) := by
  cases h : t.status <;> simp [finishCycle, h]

theorem runCycle_of_exec {s t : State} {i : Instr} (hfetch : s.fetchInstr = .ok i)
    (hexec : exec i s = .next t) :
    runCycle s = .next (if t.status = .running then t.endOfCycle else t) := by
  rw [runCycle_of_ok hfetch, hexec, finishCycle_of_next]

section
variable {rnd : Byte} {s t : State}

theorem cycle_of_fetch_error {f : FaultRecord} (hrun : s.status = .running)
    (h : s.fetchInstr = .error f) : cycle rnd s = .next ((s.latchRnd rnd).faulted f) := by
  rw [cycle_of_running rnd hrun]
  exact runCycle_of_error (by rwa [State.latchRnd_fetchInstr])

theorem cycle_of_exec {i : Instr} (hrun : s.status = .running) (hfetch : s.fetchInstr = .ok i)
    (hexec : exec i (s.latchRnd rnd) = .next t) :
    cycle rnd s = .next (if t.status = .running then t.endOfCycle else t) := by
  rw [cycle_of_running rnd hrun]
  exact runCycle_of_exec (by rwa [State.latchRnd_fetchInstr]) hexec

theorem cycle_of_completed {i : Instr} (hrun : s.status = .running) (hfetch : s.fetchInstr = .ok i)
    (hexec : exec i (s.latchRnd rnd) = .next t) (ht : t.status = .running) :
    cycle rnd s = .next t.endOfCycle := by
  rw [cycle_of_exec hrun hfetch hexec, if_pos ht]

/-- What a cycle answers: a fault taken, or an instruction's effect and the end of the cycle (R100). -/
theorem cycle_cases (h : cycle rnd s = .next t) :
    (∃ f, t = (s.latchRnd rnd).faulted f) ∨
    (∃ i u, s.fetchInstr = .ok i ∧ exec i (s.latchRnd rnd) = .next u ∧ u.status = .running ∧
      t = u.endOfCycle) := by
  obtain ⟨hrun, hbody⟩ := cycle_next h
  rcases runCycle_cases (s := s.latchRnd rnd) hrun hbody with hfault | ⟨i, u, hfetch, hexec, hkept, ht⟩
  · exact .inl hfault
  · exact .inr ⟨i, u, by rwa [State.latchRnd_fetchInstr] at hfetch, hexec, hkept.status.trans hrun, ht⟩

end

/-- Settles O7: no row is met, so nothing decodes, and the fault of dispatch is taken. -/
theorem unknownWordEndsTheRun : Obligations.UnknownWordEndsTheRun := by
  unfold Obligations.UnknownWordEndsTheRun
  intro rnd s hrun hpass hrows
  have hnone : decodeWord s.fetchWord = none := by
    by_contra hsome
    obtain ⟨row, hrow, hmeets⟩ :=
      (decodeWord_isSome_iff_meetsRow s.fetchWord).mp (Option.ne_none_iff_exists'.mp hsome)
    exact absurd hmeets (by rw [State.fetchWord, hrows row hrow]; decide)
  exact cycle_of_fetch_error hrun (State.fetchInstr_of_unknown hpass hnone)

/-- Settles O8: a cycle that ends Faulted took a fault, since a completed one ends Running. -/
theorem faultingCycleChangesOnlyStatus : Obligations.FaultingCycleChangesOnlyStatus := by
  unfold Obligations.FaultingCycleChangesOnlyStatus
  intro rnd s t f h hf
  rcases cycle_cases h with ⟨g, rfl⟩ | ⟨i, u, -, -, hu, rfl⟩
  · cases hf
    rfl
  · rw [State.endOfCycle_status, hu] at hf
    cases hf

/-- Settles O10: a Running machine's cycle answers, with a fault taken or with a completed instruction. -/
theorem runningMachineCycleAlwaysAnswers : Obligations.RunningMachineCycleAlwaysAnswers := by
  unfold Obligations.RunningMachineCycleAlwaysAnswers
  intro rnd s hrun
  obtain ⟨t, ht⟩ := runCycle_answers (s.latchRnd rnd)
  have hcycle : cycle rnd s = .next t := (cycle_of_running rnd hrun).trans ht
  refine ⟨t, hcycle, ?_⟩
  rcases cycle_cases hcycle with ⟨f, rfl⟩ | ⟨i, u, -, -, hu, rfl⟩
  · exact .inr ⟨f, rfl⟩
  · exact .inl hu

/-- Settles O5: the bytes at PC are what the cycle's fetch answers, whichever way its random byte comes. -/
theorem stepRunsTheDecodedInstruction : Obligations.StepRunsTheDecodedInstruction := by
  unfold Obligations.StepRunsTheDecodedInstruction
  intro s i hrun hpass hbytes
  have hfetch : s.fetchInstr = .ok i := State.fetchInstr_of_decodeBytes hpass hbytes
  constructor
  · intro rnd rest hagenda
    obtain ⟨t, ht, -⟩ := exec_cases i ((s.setAgenda rest).latchRnd rnd)
    refine ⟨t, ht, ?_⟩
    rw [step, hagenda]
    exact cycle_of_exec (s := s.setAgenda rest) hrun (by simpa using hfetch) ht
  · intro hagenda
    obtain ⟨t, ht, -⟩ := exec_cases i (s.countDraw.latchRnd (Config.randomByte s.draws))
    refine ⟨t, ht, ?_⟩
    rw [step, hagenda]
    exact cycle_of_exec (s := s.countDraw) hrun (by simpa using hfetch) ht

/-- Settles O6: the checks of the fetch answer in their order, and the first that fails is taken. -/
theorem fetchChecksFaultInOrder : Obligations.FetchChecksFaultInOrder := by
  unfold Obligations.FetchChecksFaultInOrder
  intro rnd s hrun
  have hsize : Config.memorySize = 4096 := rfl
  have hfault {f : FaultRecord} (h : s.checkFetch = .error f) :
      cycle rnd s = .next ((s.latchRnd rnd).faulted f) :=
    cycle_of_fetch_error hrun (State.fetchInstr_of_check_error h)
  refine ⟨fun hflag hodd => hfault ?misaligned, fun hparity hpc => hfault ?first,
    fun hparity hpc => hfault ?second⟩
  case misaligned => rw [State.checkFetch_eq, if_pos ⟨hflag, hodd⟩]
  case first =>
    rw [State.checkFetch_eq, if_neg (fun h => by have := hparity h.1; omega), if_neg (by omega),
      Nat.max_eq_left (by omega)]
  case second =>
    rw [State.checkFetch_eq, if_neg (fun h => by have := hparity h.1; omega), if_neg (by omega),
      Nat.max_eq_right (by omega), hsize]

/-! ### The end of the cycle -/

section
variable {s : State}

theorem endOfCycle_of_wallClock (h : s.cfg.timerPolicy = .wallClock) :
    s.endOfCycle = { s with kde := none } := by
  simp [State.endOfCycle, State.countsInstrs, h]

theorem endOfCycle_of_counting (h : s.cfg.timerPolicy = .instrCount)
    (hdiv : s.tdiv + 1 ≠ s.cfg.timerDiv) :
    s.endOfCycle = { s with tdiv := s.tdiv + 1, kde := none } := by
  simp [State.endOfCycle, State.countsInstrs, State.dividerFull, h, hdiv]

theorem endOfCycle_of_full (h : s.cfg.timerPolicy = .instrCount)
    (hdiv : s.tdiv + 1 = s.cfg.timerDiv) :
    s.endOfCycle = { s with dt := tickDown s.dt, st := tickDown s.st, tdiv := 0, kde := none } := by
  simp [State.endOfCycle, State.countsInstrs, State.dividerFull, h, hdiv]

end

/-- Settles O11: the end of the cycle under each policy, and under InstrCount by whether the divider is full. -/
theorem completedCycleTicksThenClearsKeyCapture :
    Obligations.CompletedCycleTicksThenClearsKeyCapture := by
  unfold Obligations.CompletedCycleTicksThenClearsKeyCapture
  intro rnd s t i hrun hfetch hexec ht
  rw [State.latchRnd_fetchInstr] at hfetch
  refine ⟨t.endOfCycle, cycle_of_completed hrun hfetch hexec ht, rfl, fun h => endOfCycle_of_wallClock h,
    fun h hdiv => endOfCycle_of_counting h hdiv, fun h hdiv => ?_⟩
  rw [endOfCycle_of_full h hdiv]
  exact ⟨tickDown_toNat t.dt, tickDown_toNat t.st, rfl⟩

end Sys2Proof.Machine
end

section
/-! SUPPORT. The agenda: what a step on each action of the host answers, what events and steps leave alone, and runs
of several steps (R109, R213, R245, R250 to R252, R260 to R265). -/

namespace Sys2Proof.Machine

/-! ### A step, by the agenda -/

theorem step_of_agenda {s : State} {a : HostAction} {rest : List HostAction}
    (h : s.agenda = a :: rest) : step s = act a (s.setAgenda rest) := by
  rw [step, h]

theorem step_of_empty {s : State} (h : s.agenda = []) :
    step s = cycle (Config.randomByte s.draws) s.countDraw := by
  rw [step, h]
  rfl

/-- Settles O52: each event is one field written after its action is taken off the agenda. -/
theorem hostEventsDoWhatTheyName : Obligations.HostEventsDoWhatTheyName := by
  unfold Obligations.HostEventsDoWhatTheyName
  intro s k rest
  have hquit (h : s.agenda = .quit :: rest) : step s = .next { s with
      status := if s.status = .running then .quit else s.status, agenda := rest } := step_of_agenda h
  exact ⟨fun h => step_of_agenda h, fun h => step_of_agenda h, fun h => step_of_agenda h,
    fun h => step_of_agenda h, fun h hrun => by rw [hquit h, if_pos hrun],
    fun h hrun => by rw [hquit h, if_neg hrun]⟩

/-! ### What events and steps leave alone -/

/-- Settles O17: an event that is no cycle writes six elements, none of which a byte is read from. -/
theorem hostEventsNeverTouchTheProgram : Obligations.HostEventsNeverTouchTheProgram := by
  unfold Obligations.HostEventsNeverTouchTheProgram
  intro a s t ha h
  rcases act_cases h with ⟨rnd, rfl, -⟩ | ⟨-, ht⟩
  · cases ha
  · exact ⟨ht, State.byteAt_congr (by rw [ht]) (by rw [ht])⟩

theorem cycle_cfg {rnd : Byte} {s t : State} (h : cycle rnd s = .next t) : t.cfg = s.cfg := by
  rcases cycle_cases h with ⟨f, rfl⟩ | ⟨i, u, -, hexec, -, rfl⟩
  · rfl
  · obtain ⟨-, -, -, hcfg⟩ := (exec_accesses hexec).kept
    exact hcfg

theorem act_cfg {a : HostAction} {s t : State} (h : act a s = .next t) : t.cfg = s.cfg := by
  rcases act_cases h with ⟨rnd, rfl, hcycle⟩ | ⟨-, ht⟩
  · exact cycle_cfg hcycle
  · rw [ht]

/-- Settles O15: neither a cycle nor an event writes the configuration. -/
theorem configurationNeverChanges : Obligations.ConfigurationNeverChanges := by
  unfold Obligations.ConfigurationNeverChanges
  intro s t h
  rcases step_cases h with ⟨-, hcycle⟩ | ⟨a, rest, -, hact⟩
  · exact cycle_cfg (s := s.countDraw) hcycle
  · exact act_cfg (s := s.setAgenda rest) hact

/-! ### The self-jump -/

/-- A state that is about to run a jump to its own address, on an empty agenda. -/
structure AtSelfJump (nnn : Addr12) (s : State) : Prop where
  running : s.status = .running
  agenda : s.agenda = []
  pc : s.pc = addrOfImm nnn
  fetch : s.fetchInstr = .ok (.jp nnn)

/-- The jump's cycle leaves PC where it was, so the same jump is fetched next. -/
theorem step_atSelfJump {nnn : Addr12} {s : State} (h : AtSelfJump nnn s) :
    ∃ t, step s = .next t ∧ AtSelfJump nnn t := by
  have hstep := (step_of_empty h.agenda).trans
    (cycle_of_completed (s := s.countDraw) h.running (by rw [State.countDraw_fetchInstr]; exact h.fetch)
      (exec_jp nnn _) h.running)
  exact ⟨_, hstep,
    { running := h.running
      agenda := h.agenda
      pc := rfl
      fetch := Eq.trans (b := s.fetchInstr) (State.fetchInstr_congr h.pc.symm rfl rfl) h.fetch }⟩

theorem safeFor_of_atSelfJump {nnn : Addr12} (k : Nat) {s : State} (h : AtSelfJump nnn s) :
    SafeFor k s := by
  induction k generalizing s with
  | zero => exact h.running
  | succ k ih =>
    obtain ⟨t, hstep, ht⟩ := step_atSelfJump h
    exact ⟨h.running, t, hstep, ih ht⟩

/-- Settles O21: every step of the self-jump leads to the self-jump again. -/
theorem selfJumpRunsForEver : Obligations.SelfJumpRunsForEver := by
  unfold Obligations.SelfJumpRunsForEver
  intro s nnn k hrun hagenda hpc hfetch
  have hself : s.pc = addrOfImm nnn := BitVec.eq_of_toNat_eq (by rw [hpc, addrOfImm_toNat])
  exact safeFor_of_atSelfJump k ⟨hrun, hagenda, hself, hfetch⟩

/-! ### The key wait -/

/-- A key code is kept by the widening to a byte (R213). -/
theorem byteOfKey_toNat (k : Nibble) : (byteOfKey k).toNat = k.toNat :=
  BitVec.toNat_setWidth_of_le (by decide)

/-- The cycle of an FX0A that goes on waiting. -/
theorem cycle_ldKey_of_none {s : State} {x : Nibble} (r : Byte) (hrun : s.status = .running)
    (hfetch : s.fetchInstr = .ok (.ldKey x)) (hkde : s.kde = none) :
    cycle r s = .next (s.latchRnd r).endOfCycle :=
  cycle_of_completed hrun hfetch (exec_ldKey_of_none x hkde) hrun

/-- The cycle that ends the wait of FX0A. -/
theorem cycle_ldKey_of_some {s : State} {x k : Nibble} (r : Byte) (hrun : s.status = .running)
    (hfetch : s.fetchInstr = .ok (.ldKey x)) (hkde : s.kde = some k) :
    cycle r s = .next ((s.latchRnd r).advance.setReg x (byteOfKey k)).endOfCycle :=
  cycle_of_completed hrun hfetch (exec_ldKey_of_some x hkde) hrun

@[simp] theorem State.reg_endOfCycle (s : State) (r : Nibble) : s.endOfCycle.reg r = s.reg r := rfl

/-- A key pressed and released between two cycles is captured, and no longer latched (R260). -/
theorem step_keyDown_keyUp {s : State} {k k' : Nibble} {rest : List HostAction}
    (h : s.agenda = .keyDown k :: .keyUp k' :: rest) :
    ∃ u, u = { s with key := none, kde := some k, agenda := rest } ∧
      step s = .next ((s.setAgenda (.keyUp k' :: rest)).keyDown k) ∧
      step ((s.setAgenda (.keyUp k' :: rest)).keyDown k) = .next u :=
  ⟨_, rfl, step_of_agenda h, rfl⟩

/-- Settles O49: the wait's cycle keeps PC; a key-down and a key-up leave the code captured for the next cycle. -/
theorem keyDownEndsTheWait : Obligations.KeyDownEndsTheWait := by
  unfold Obligations.KeyDownEndsTheWait
  intro s x k r rest hrun hfetch
  constructor
  · intro hkde hagenda
    have hcycle : cycle r (s.setAgenda rest) = .next ((s.setAgenda rest).latchRnd r).endOfCycle :=
      cycle_ldKey_of_none r hrun (by rwa [State.setAgenda_fetchInstr]) hkde
    exact ⟨_, (step_of_agenda hagenda).trans hcycle, rfl, rfl, hrun, rfl⟩
  · intro hagenda
    obtain ⟨u, hu, hdown, hup⟩ := step_keyDown_keyUp hagenda
    have hcycle := cycle_ldKey_of_some (s := u.setAgenda rest) r (by rw [hu]; exact hrun)
      (by rw [State.setAgenda_fetchInstr, hu]; exact (State.fetchInstr_congr rfl rfl rfl).trans hfetch)
      (by rw [hu]; rfl)
    refine ⟨_, u, _, hdown, hup, (step_of_agenda (a := .cycle r) (by rw [hu])).trans hcycle, ?_⟩
    simp [hu, byteOfKey_toNat]

/-! ### The timers -/

/-- Settles O50: by induction on the number of ticks. -/
theorem timerTicksSaturateAtZero : Obligations.TimerTicksSaturateAtZero := by
  unfold Obligations.TimerTicksSaturateAtZero
  refine ⟨fun n s => ?_, fun s rest hagenda hpolicy => ?_⟩
  · induction n with
    | zero => exact ⟨rfl, rfl, rfl⟩
    | succ n ih =>
      obtain ⟨hdt, hst, hframe⟩ := ih
      rw [Function.iterate_succ_apply']
      refine ⟨?_, ?_, ?_⟩
      · rw [State.timerTick_dt, tickDown_toNat, hdt, Nat.sub_sub]
      · rw [State.timerTick_st, tickDown_toNat, hst, Nat.sub_sub]
      · rw [hframe]
        rfl
  · rw [step_of_agenda hagenda]
    simp [act, State.hostTick, hpolicy]

/-- What a completed cycle under InstrCount that runs no FX15 does to the divider and to DT (R106, R251). -/
theorem cycle_instrCount {rnd : Byte} {s t : State} (hpolicy : s.cfg.timerPolicy = .instrCount)
    (h : cycle rnd s = .next t) (ht : t.status = .running)
    (hfetch : ∀ x, s.fetchInstr ≠ .ok (.ldDelay x)) :
    t.tdiv = (if s.tdiv + 1 = s.cfg.timerDiv then 0 else s.tdiv + 1) ∧
    t.dt.toNat = (if s.tdiv + 1 = s.cfg.timerDiv then s.dt.toNat - 1 else s.dt.toNat) := by
  rcases cycle_cases h with ⟨f, rfl⟩ | ⟨i, u, hi, hexec, -, rfl⟩
  · cases ht
  · have ha := exec_accesses hexec
    obtain ⟨-, -, htdiv, hcfg⟩ := ha.kept
    have hdt : u.dt = s.dt := by
      by_contra hne
      obtain ⟨x, rfl⟩ := ha.delay hne
      exact hfetch x hi
    have hcount := u.endOfCycle_instrCount (by rw [hcfg]; exact hpolicy)
    rwa [htdiv, hcfg, hdt] at hcount

/-- DT and the divider after `k` of the cycles that O51 counts: DT falls where the divider starts again. -/
structure CountedCycles (s t : State) (k : Nat) : Prop where
  cfg : t.cfg = s.cfg
  tdiv : t.tdiv = if s.tdiv + k < s.cfg.timerDiv then s.tdiv + k else s.tdiv + k - s.cfg.timerDiv
  dt : t.dt.toNat = if s.tdiv + k < s.cfg.timerDiv then s.dt.toNat else s.dt.toNat - 1

theorem countedCycles_succ {rnd : Byte} {s t u v : State} {k : Nat} (h : CountedCycles s t k)
    (hpolicy : s.cfg.timerPolicy = .instrCount) (htdiv : s.tdiv < s.cfg.timerDiv)
    (hk : k < s.cfg.timerDiv) (hcycle : cycle rnd t = .next u) (hu : u.status = .running)
    (hfetch : ∀ x, t.fetchInstr ≠ .ok (.ldDelay x)) (hv : SameTimer u v) :
    CountedCycles s v (k + 1) := by
  obtain ⟨hvcfg, hvdt, hvtdiv⟩ := hv
  obtain ⟨hutdiv, hudt⟩ := cycle_instrCount (by rw [h.cfg, hpolicy]) hcycle hu hfetch
  rw [h.cfg, h.tdiv] at hutdiv hudt
  rw [h.dt] at hudt
  refine ⟨by rw [hvcfg, cycle_cfg hcycle, h.cfg], ?_, ?_⟩
  · rw [hvtdiv, hutdiv]
    split_ifs <;> omega
  · rw [hvdt, hudt]
    split_ifs <;> omega

/-- Settles O51: by induction on the number of cycles run so far. -/
theorem delayFallsOncePerDivider : Obligations.DelayFallsOncePerDivider := by
  unfold Obligations.DelayFallsOncePerDivider
  intro σ τ r hpolicy htdiv hrun
  have hcounted (k : Nat) (hk : k ≤ (σ 0).cfg.timerDiv) : CountedCycles (σ 0) (σ k) k := by
    induction k with
    | zero => exact ⟨rfl, by simp [htdiv], by simp [htdiv]⟩
    | succ k ih =>
      obtain ⟨hcycle, hstatus, hsame, hfetch⟩ := hrun k hk
      simp only [State.latchRnd_fetchInstr] at hfetch
      exact countedCycles_succ (ih (by omega)) hpolicy htdiv hk hcycle hstatus hfetch hsame
  obtain ⟨-, hend, hdt⟩ := hcounted _ le_rfl
  rw [if_neg (by omega)] at hend hdt
  exact ⟨hdt, by omega⟩

end Sys2Proof.Machine
end

section
/-! SUPPORT. The ALU: a result and its flag written after the advance, the logic, the random byte (R140, R144 to
R152). -/

namespace Sys2Proof.Machine

/-! ### A result and its flag -/

/-- An instruction that writes a result and then its flag: the flag survives X = F, and the result is seen where X
is not F (R140). -/
theorem exec_setResultFlag_spec {i : Instr} {s : State} {x : Nibble} {p : Byte × Bool} {n m : Nat}
    (hexec : exec i s = .next (s.advance.setResultFlag x p)) (hresult : p.1.toNat = n)
    (hflag : (if p.2 then 1 else 0) = m) :
    ∃ t, exec i s = .next t ∧ (x ≠ flagReg → (t.reg x).toNat = n) ∧ (t.reg flagReg).toNat = m ∧
      RegsKeptButFlag s t x ∧ t.pc = s.pc + 2 ∧ OnlyRegsPc s t := by
  refine ⟨_, hexec, fun hx => ?_, ?_, s.advance_setResultFlag_regsKeptButFlag x p, rfl,
    s.advance_setResultFlag_onlyRegsPc x p⟩
  · rw [State.reg_setResultFlag, if_neg hx, if_pos rfl, hresult]
  · rw [State.reg_setResultFlag, if_pos rfl, flagByte_toNat, hflag]

/-! ### The flag computations -/

theorem addWithCarry_flag (a b : Byte) :
    (if (addWithCarry a b).2 then 1 else 0) = if 255 < a.toNat + b.toNat then 1 else 0 := by
  simp [addWithCarry]

/-- NOT-borrow is 1 where the exact difference is not negative, equality included (R148). -/
theorem subNotBorrow_flag (a b : Byte) :
    (if (subNotBorrow a b).2 then 1 else 0) = if a.toNat < b.toNat then 0 else 1 := by
  by_cases h : a.toNat < b.toNat <;> simp [subNotBorrow, h]

theorem shiftRightOut_toNat (b : Byte) : (shiftRightOut b).1.toNat = b.toNat / 2 := by
  simp [shiftRightOut, Nat.shiftRight_eq_div_pow]

theorem shiftRightOut_flag (b : Byte) : (if (shiftRightOut b).2 then 1 else 0) = b.toNat % 2 := by
  have hbit : b.getLsbD 0 = decide (b.toNat % 2 = 1) := Nat.testBit_zero b.toNat
  rw [shiftRightOut, hbit]
  split_ifs with h <;> simp at h <;> omega

theorem shiftLeftOut_toNat (b : Byte) : (shiftLeftOut b).1.toNat = b.toNat * 2 % 256 := by
  simp [shiftLeftOut, Nat.shiftLeft_eq]

theorem shiftLeftOut_flag (b : Byte) : (if (shiftLeftOut b).2 then 1 else 0) = b.toNat / 128 := by
  have hlt := b.isLt
  have hbit : b.getLsbD 7 = decide (b.toNat / 2 ^ 7 % 2 = 1) := Nat.testBit_eq_decide_div_mod_eq
  rw [shiftLeftOut, hbit]
  split_ifs with h <;> simp at h <;> omega

/-! ### Sum, differences and shifts -/

/-- Settles O29: the sum and its carry are the result and the flag written. -/
theorem addWritesSumThenCarry : Obligations.AddWritesSumThenCarry := by
  unfold Obligations.AddWritesSumThenCarry
  intro s x y
  exact exec_setResultFlag_spec (exec_addReg x y s) (addWithCarry_fst_toNat _ _) (addWithCarry_flag _ _)

/-- Settles O30: 8XY7 is 8XY5 with its operands exchanged. -/
theorem subtractionsWriteDifferenceThenNotBorrow :
    Obligations.SubtractionsWriteDifferenceThenNotBorrow := by
  unfold Obligations.SubtractionsWriteDifferenceThenNotBorrow
  intro s x y
  exact ⟨exec_setResultFlag_spec (exec_subReg x y s) (subNotBorrow_toNat _ _) (subNotBorrow_flag _ _),
    exec_setResultFlag_spec (exec_subnReg x y s) (subNotBorrow_toNat _ _) (subNotBorrow_flag _ _)⟩

theorem shiftSource_eq {s : State} {x y : Nibble} {src : Byte}
    (hlegacy : s.cfg.shiftUsesVy = true → src = s.reg y)
    (hmodern : s.cfg.shiftUsesVy = false → src = s.reg x) : s.shiftSource x y = src := by
  cases h : s.cfg.shiftUsesVy with
  | true => simp [State.shiftSource, h, hlegacy h]
  | false => simp [State.shiftSource, h, hmodern h]

/-- Settles O31: both shift the selected source. -/
theorem shiftsMoveOneBitIntoTheFlag : Obligations.ShiftsMoveOneBitIntoTheFlag := by
  unfold Obligations.ShiftsMoveOneBitIntoTheFlag
  intro s x y src hlegacy hmodern
  have hsrc := shiftSource_eq hlegacy hmodern
  have hshr := exec_shr x y s
  have hshl := exec_shl x y s
  rw [hsrc] at hshr hshl
  exact ⟨exec_setResultFlag_spec hshr (shiftRightOut_toNat src) (shiftRightOut_flag src),
    exec_setResultFlag_spec hshl (shiftLeftOut_toNat src) (shiftLeftOut_flag src)⟩

/-! ### Logic and the random byte -/

/-- An instruction that writes `b` to V[X] writes each bit of `b`. -/
theorem exec_setReg_bits {i : Instr} {s : State} {x : Nibble} {b : Byte} {bit : Nat → Bool}
    (hexec : exec i s = .next (s.advance.setReg x b)) (hbits : ∀ k, b.getLsbD k = bit k) :
    ∃ t, exec i s = .next t ∧ (∀ k, (t.reg x).getLsbD k = bit k) ∧ RegsKeptBut s t x ∧
      t.pc = s.pc + 2 ∧ OnlyRegsPc s t := by
  obtain ⟨t, ht, hx, hframe⟩ := exec_setReg_spec hexec
  exact ⟨t, ht, fun k => by rw [hx, hbits], hframe⟩

/-- Settles O28: each operator works bit by bit, and its result is the one register written. -/
theorem logicWritesItsResultAlone : Obligations.LogicWritesItsResultAlone := by
  unfold Obligations.LogicWritesItsResultAlone
  intro s x y
  exact ⟨exec_setReg_bits (exec_orReg x y s) fun _ => BitVec.getLsbD_or,
    exec_setReg_bits (exec_andReg x y s) fun _ => BitVec.getLsbD_and,
    exec_setReg_bits (exec_xorReg x y s) fun _ => BitVec.getLsbD_xor⟩

/-- Settles O32: the latched byte is masked bit by bit. -/
theorem randomByteIsMasked : Obligations.RandomByteIsMasked := by
  unfold Obligations.RandomByteIsMasked
  intro s x nn rnd
  exact exec_setReg_bits (exec_rnd x nn (s.latchRnd rnd)) fun _ => BitVec.getLsbD_and

end Sys2Proof.Machine
end

section
/-! SUPPORT. Jumps, the call stack, the key skips, and the instructions of the timers and of the key wait (R121 to
R123, R128, R210 to R215). -/

namespace Sys2Proof.Machine

/-! ### Jumps -/

theorem State.jump_onlyPc (s : State) (w : Word) : OnlyPc s (s.jump w) :=
  ⟨rfl, fun _ => rfl⟩

/-- The top nibble of NNN as the register number of BNNN (R128). -/
theorem topNibble_eq (nnn : Addr12) : nnn.extractLsb' 8 4 = BitVec.ofNat 4 (nnn.toNat / 256) := by
  apply BitVec.eq_of_toNat_eq
  simp [Nat.shiftRight_eq_div_pow]

/-- Settles O20: both jump, to the immediate widened and to the exact sum. -/
theorem jumpsSetPcToTheExactTarget : Obligations.JumpsSetPcToTheExactTarget := by
  unfold Obligations.JumpsSetPcToTheExactTarget
  intro s nnn
  refine ⟨⟨_, exec_jp nnn s, addrOfImm_toNat nnn, s.jump_onlyPc _⟩,
    ⟨_, exec_jpOffset nnn s, s.jump_onlyPc _, fun h => ?_, fun h => ?_⟩⟩
  · rw [State.jump_pc, offsetTarget_toNat, State.jumpOffset, h, if_neg Bool.false_ne_true]
  · rw [State.jump_pc, offsetTarget_toNat, State.jumpOffset, h, if_pos rfl, topNibble_eq]

/-! ### The call stack -/

/-- Settles O22: a push with room sets the entry at SP, and one at the bound faults. -/
theorem callPushesTheReturnAddress : Obligations.CallPushesTheReturnAddress := by
  unfold Obligations.CallPushesTheReturnAddress
  refine fun s nnn => ⟨fun hlen hsp => ?_, exec_call_of_full nnn⟩
  refine ⟨_, exec_call_of_room nnn hsp.ne, List.getElem?_set_self (by omega), fun k hk => ?_, rfl,
    addrOfImm_toNat nnn, rfl, fun _ => rfl⟩
  exact List.getElem?_set_ne hk.symm

/-- Settles O23: a pop reads the entry below SP, and one on an empty stack faults. -/
theorem returnPopsTheTopEntry : Obligations.ReturnPopsTheTopEntry := by
  unfold Obligations.ReturnPopsTheTopEntry
  refine fun s => ⟨fun k ret hsp hret => ?_, exec_ret_of_empty⟩
  refine ⟨_, exec_ret_of_succ hsp, ?_, rfl, rfl, fun _ => rfl⟩
  show s.stack.getD k 0 = ret
  rw [List.getD_eq_getElem?_getD, hret, Option.getD_some]

/-- Settles O24: what O22 pushes, O23 pops. -/
theorem returnResumesAfterTheCall : Obligations.ReturnResumesAfterTheCall := by
  unfold Obligations.ReturnResumesAfterTheCall
  intro s nnn hlen hroom
  obtain ⟨t, hcall, hentry, -, hsp, -⟩ := (callPushesTheReturnAddress s nnn).1 hlen hroom
  refine ⟨t, hcall, fun t' hstack' hsp' => ?_⟩
  obtain ⟨u, hret, hpc, husp, -⟩ :=
    (returnPopsTheTopEntry t').1 s.sp (s.pc + 2) (hsp'.trans hsp) (by rw [hstack', hentry])
  exact ⟨u, hret, hpc, husp⟩

/-! ### Keys -/

/-- Settles O47: EXA1 skips on the negation of EX9E's comparison. -/
theorem keySkipsCompareTheLatchedKey : Obligations.KeySkipsCompareTheLatchedKey := by
  unfold Obligations.KeySkipsCompareTheLatchedKey
  intro s x
  have hmatch := s.keyMatches_iff x
  exact ⟨exec_skip_spec (exec_skp x s) hmatch.mpr fun h => Bool.eq_false_iff.mpr (mt hmatch.mp h),
    exec_skip_spec (exec_sknp x s) (fun h => by rw [Bool.eq_false_iff.mpr (mt hmatch.mp h), Bool.not_false])
      fun h => by rw [hmatch.mpr h, Bool.not_true]⟩

/-- Settles O48: a captured code is the one register written, and without one nothing is. -/
theorem keyWaitStoresTheCapturedKeyOrHolds : Obligations.KeyWaitStoresTheCapturedKeyOrHolds := by
  unfold Obligations.KeyWaitStoresTheCapturedKeyOrHolds
  refine fun s x => ⟨fun k hkde => ?_, exec_ldKey_of_none x⟩
  obtain ⟨t, ht, hx, hframe⟩ := exec_setReg_spec (exec_ldKey_of_some x hkde)
  exact ⟨t, ht, by rw [hx, byteOfKey_toNat], hframe⟩

/-! ### Timers -/

theorem soundOn_iff (s : State) : s.soundOn = true ↔ s.st ≠ 0 := bne_iff_ne

/-- Settles O46: one register, DT or ST is written after the advance. -/
theorem timerInstructionsMoveOneByte : Obligations.TimerInstructionsMoveOneByte := by
  unfold Obligations.TimerInstructionsMoveOneByte
  intro s x
  exact ⟨exec_setReg_spec (exec_ldFromDelay x s),
    ⟨_, exec_ldDelay x s, rfl, rfl, rfl, fun _ => rfl⟩,
    ⟨_, exec_ldSound x s, rfl, rfl, soundOn_iff _, rfl, fun _ => rfl⟩⟩

end Sys2Proof.Machine
end

section
/-! SUPPORT. Memory: canonical data, the stores and loads of the index instructions, the program load, and the reset
contents (R36, R50 to R65, R173 to R177, R282). -/

namespace Sys2Proof.Machine

/-! ### Memory as data -/

/-- Settles O41: read after write, and a write keeps the canonical form. -/
theorem byteWrittenIsTheByteRead : Obligations.ByteWrittenIsTheByteRead := by
  unfold Obligations.ByteWrittenIsTheByteRead
  intro s a b hm ha
  exact ⟨s.byteAt_setByte_same a b hm, fun _ hne => s.byteAt_setByte_ne b hne,
    Memory.write_wellFormed b hm ha⟩

section
variable {font : List Byte}

theorem Memory.WellFormed.tail {c : Host.Cell} {m : Memory} (h : Memory.WellFormed font (c :: m)) :
    Memory.WellFormed font m :=
  ⟨(List.pairwise_cons.mp h.1).2, fun d hd => h.2 d (List.mem_cons_of_mem c hd)⟩

/-- An address below the first listed one, or at it, is below all that follow. -/
theorem Memory.WellFormed.lt_of_le_head {c : Host.Cell} {m : Memory}
    (h : Memory.WellFormed font (c :: m)) {a : Nat} (ha : a ≤ c.1) : ∀ d ∈ m, a < d.1 :=
  fun d hd => ha.trans_lt ((List.pairwise_cons.mp h.1).1 d hd)

/-- The first listed address does not read as the reset contents. -/
theorem Memory.WellFormed.head_listed {c : Host.Cell} {m : Memory}
    (h : Memory.WellFormed font (c :: m)) : Memory.read font (c :: m) c.1 ≠ Memory.unlisted font c.1 := by
  rw [Memory.read_head]
  exact (h.2 c (List.mem_cons_self ..)).2

/-- A listed address is listed in every memory that reads alike, at or before the same place. -/
theorem Memory.head_le_of_read_eq {c d : Host.Cell} {m m' : Memory}
    (h : Memory.WellFormed font (c :: m)) (h' : Memory.WellFormed font (d :: m'))
    (hread : ∀ a, Memory.read font (c :: m) a = Memory.read font (d :: m') a) : d.1 ≤ c.1 := by
  by_contra hlt
  have hbelow : ∀ e ∈ d :: m', c.1 < e.1 := by
    intro e he
    rcases List.mem_cons.mp he with rfl | he
    · omega
    · exact h'.lt_of_le_head (by omega) e he
  exact h.head_listed ((hread c.1).trans (Memory.read_of_lt _ hbelow))

/-- Past the first listed address, reading goes on in the rest. -/
theorem Memory.read_tail_eq {c d : Host.Cell} {m m' : Memory} (hcd : c.1 = d.1)
    (h : Memory.WellFormed font (c :: m)) (h' : Memory.WellFormed font (d :: m'))
    (hread : ∀ a, Memory.read font (c :: m) a = Memory.read font (d :: m') a) (a : Nat) :
    Memory.read font m a = Memory.read font m' a := by
  by_cases ha : c.1 = a
  · rw [Memory.read_of_lt m (h.lt_of_le_head ha.ge), Memory.read_of_lt m' (h'.lt_of_le_head (by omega))]
  · have hne : d.1 ≠ a := fun e => ha (hcd.trans e)
    simpa [Memory.read, ha, hne] using hread a

theorem Memory.not_read_eq_nil {c : Host.Cell} {m : Memory} (h : Memory.WellFormed font (c :: m)) :
    ¬∀ a, Memory.read font (c :: m) a = Memory.read font [] a :=
  fun hread => h.head_listed (hread c.1)

theorem Memory.eq_of_read_eq {m m' : Memory} (h : Memory.WellFormed font m)
    (h' : Memory.WellFormed font m') (hread : ∀ a, Memory.read font m a = Memory.read font m' a) :
    m = m' := by
  induction m generalizing m' with
  | nil =>
    cases m' with
    | nil => rfl
    | cons d m' => exact absurd (fun a => (hread a).symm) (Memory.not_read_eq_nil h')
  | cons c m ih =>
    cases m' with
    | nil => exact absurd hread (Memory.not_read_eq_nil h)
    | cons d m' =>
      have haddr : c.1 = d.1 := le_antisymm (Memory.head_le_of_read_eq h' h fun a => (hread a).symm)
        (Memory.head_le_of_read_eq h h' hread)
      have hbyte : c.2 = d.2 := by
        have hc := hread c.1
        rw [Memory.read_head, haddr, Memory.read_head] at hc
        exact hc
      rw [Prod.ext haddr hbyte, ih h.tail h'.tail (Memory.read_tail_eq haddr h h' hread)]

end

/-- Settles O42: by induction on the lists, whose first addresses and bytes agree. -/
theorem memoriesThatReadAlikeAreEqual : Obligations.MemoriesThatReadAlikeAreEqual := by
  unfold Obligations.MemoriesThatReadAlikeAreEqual
  exact fun font m m' h h' hread => Memory.eq_of_read_eq h h' hread

/-! ### The program load -/

section
variable {s : State} {bytes : List Byte}

theorem State.load_image_of_fits (h : bytes.length ≤ Config.maxImage) :
    s.load (.image bytes) = s.putBytes Config.programBase bytes := by
  rw [State.load, if_neg (Nat.not_lt.mpr h)]

theorem State.load_image_of_tooLong (h : Config.maxImage < bytes.length) :
    s.load (.image bytes) = s.faulted (.programLoadError (.tooLong bytes.length)) := by
  rw [State.load, if_pos h]

end

/-- Settles O19: a load that fits is a store from 0x200 on, and it ends within memory. -/
theorem loadPlacesTheImageVerbatim : Obligations.LoadPlacesTheImageVerbatim := by
  unfold Obligations.LoadPlacesTheImageVerbatim
  refine fun s bytes hm => ⟨fun hfits => ?_, fun hlong => State.load_image_of_tooLong hlong, fun _ => rfl⟩
  have hin : Config.programBase + bytes.length ≤ Config.memorySize := by
    have hbase : Config.programBase = 512 := rfl
    have hsize : Config.memorySize = 4096 := rfl
    omega
  rw [State.load_image_of_fits hfits]
  exact ⟨s.byteAt_putBytes_inside _ bytes hm hin, fun _ hb => s.byteAt_putBytes_outside _ bytes hb,
    s.putBytes_eq _ bytes, s.putBytes_wellFormed _ bytes hm hin⟩

/-! ### The reset contents -/

theorem Memory.unlisted_of_lt {font : List Byte} {a : Nat} (h : a < Config.fontSize) :
    Memory.unlisted font a = font.getD a 0x00 :=
  if_pos h

theorem Memory.unlisted_of_le {font : List Byte} {a : Nat} (h : Config.fontSize ≤ a) :
    Memory.unlisted font a = 0x00 :=
  if_neg (Nat.not_lt.mpr h)

theorem reset_byteAt (a : Nat) : State.reset.byteAt a = Memory.unlisted Config.defaultFont a := rfl

/-- Settles O18: the reset contents are the font and 0x00, and a load that fits keeps STATUS. -/
theorem resetLeavesEveryElementAtItsValue : Obligations.ResetLeavesEveryElementAtItsValue := by
  unfold Obligations.ResetLeavesEveryElementAtItsValue
  refine ⟨fun x => Vector.getElem_replicate .., rfl, rfl, rfl, rfl,
    fun r hr => List.eq_of_mem_replicate hr, rfl, rfl, fun a ha => ?font, fun a ha => ?above,
    Framebuffer.cell_clear, rfl, rfl, rfl, rfl, fun bytes hfits => ?load⟩
  case font =>
    have hlen : a < Config.defaultFont.length := ha
    rw [reset_byteAt, Memory.unlisted_of_lt ha, List.getD_eq_getElem?_getD,
      List.getElem?_eq_getElem hlen, Option.getD_some]
  case above => rw [reset_byteAt, Memory.unlisted_of_le ha]
  case load => rw [State.load_image_of_fits hfits, State.putBytes_status]; rfl

/-! ### The sum to I -/

theorem addIndex_frame (s : State) (w : Word) (f : Bool) :
    (s.writeIndex w).advance.setIndexFlag f =
      { s with v := ((s.writeIndex w).advance.setIndexFlag f).v, i := w, pc := s.pc + 2 } := rfl

/-- Settles O34: by whether the exact sum fits in 16 bits. -/
theorem addIndexIsExactOrFaults : Obligations.AddIndexIsExactOrFaults := by
  unfold Obligations.AddIndexIsExactOrFaults
  refine fun s x => ⟨fun hfits => ?_, exec_addIndex_of_overflow x⟩
  refine ⟨_, exec_addIndex_of_fits x hfits, ?sum, fun hon => ?flag, fun hoff => ?kept, fun r hr => ?regs, rfl,
    addIndex_frame s _ _, fun _ => rfl⟩
  case sum => exact Nat.mod_eq_of_lt (by omega)
  case flag => rw [State.reg_setIndexFlag, if_pos ⟨hon, rfl⟩, flagByte_toNat]; simp [beyondRange]
  case kept => rw [State.reg_setIndexFlag, if_neg fun h => by simp [hoff] at h]; rfl
  case regs => rw [State.reg_setIndexFlag, if_neg fun h => hr h.2]; rfl

/-! ### Stores and loads -/

section
variable {s : State} {x : Nibble}

/-- The advance of I is exact once the range check has passed (R176, R177; log 32). -/
theorem advancedIndex_of_on (h : s.indexAddr + (x.toNat + 1) ≤ Config.memorySize)
    (hon : s.cfg.lsAdvanceI = true) : (s.advancedIndex x).toNat = s.i.toNat + x.toNat + 1 := by
  rw [s.advancedIndex_toNat x h, if_pos hon]

theorem advancedIndex_of_off (hoff : s.cfg.lsAdvanceI = false) : s.advancedIndex x = s.i :=
  if_neg (by simp [hoff])

end

/-- Settles O35: the three digits are the bytes put. -/
theorem storeBcdWritesThreeDigits : Obligations.StoreBcdWritesThreeDigits := by
  unfold Obligations.StoreBcdWritesThreeDigits
  intro s x hm hin
  have hlt := (s.reg x).isLt
  have hdigit (k : Nat) (hk : k < 3) :=
    s.byteAt_putBytes_inside s.indexAddr (bcdDigits (s.reg x)) hm hin k hk
  refine ⟨_, exec_storeBcd_of_inRange x hin, ?hundreds, ?tens, ?units,
    fun b hb => s.byteAt_putBytes_outside s.indexAddr (bcdDigits (s.reg x)) hb,
    congrArg (· + 2) (s.putBytes_pc ..), ?frame⟩
  case hundreds =>
    exact (congrArg BitVec.toNat (hdigit 0 (by decide))).trans (Nat.mod_eq_of_lt (by omega))
  case tens =>
    exact (congrArg BitVec.toNat (hdigit 1 (by decide))).trans (Nat.mod_eq_of_lt (by omega))
  case units =>
    exact (congrArg BitVec.toNat (hdigit 2 (by decide))).trans (Nat.mod_eq_of_lt (by omega))
  case frame =>
    rw [State.putBytes_eq]
    rfl

/-- Settles O36: the registers are the bytes put. -/
theorem storeRegsCopiesRegistersToMemory : Obligations.StoreRegsCopiesRegistersToMemory := by
  unfold Obligations.StoreRegsCopiesRegistersToMemory
  intro s x hm hin
  have hlen := s.regsUpTo_length x
  refine ⟨_, exec_storeRegs_of_inRange x hin, fun r hr => ?bytes, fun b hb => ?outside,
    congrArg (· + 2) (s.putBytes_pc ..), advancedIndex_of_on hin, advancedIndex_of_off, ?frame⟩
  case bytes =>
    exact (s.byteAt_putBytes_inside s.indexAddr (s.regsUpTo x) hm (by rwa [hlen]) r.toNat
      (by omega)).trans (s.getElem_regsUpTo x r hr)
  case outside => exact s.byteAt_putBytes_outside s.indexAddr (s.regsUpTo x) (by rwa [hlen])
  case frame =>
    rw [State.putBytes_eq]
    rfl

/-- Registers up to V[X] take the bytes of the list (R177). -/
theorem reg_writeRegs_putRegs_of_lt (s : State) (bs : List Byte) {r : Nibble} (h : r.toNat < bs.length) :
    (s.writeRegs (putRegs s.v 0 bs)).reg r = bs[r.toNat] := by
  show (putRegs s.v 0 bs)[r.toNat] = bs[r.toNat]
  rw [getElem_putRegs _ _ _ _ r.isLt, dif_pos ⟨Nat.zero_le _, by omega⟩]
  rfl

/-- Settles O37: the bytes read are the registers written. -/
theorem loadRegsCopiesMemoryToRegisters : Obligations.LoadRegsCopiesMemoryToRegisters := by
  unfold Obligations.LoadRegsCopiesMemoryToRegisters
  intro s x hin
  have hlen := s.bytesFrom_length s.indexAddr (x.toNat + 1)
  refine ⟨_, exec_loadRegs_of_inRange x hin, fun r hr => ?loaded, fun r hr => ?kept, rfl,
    advancedIndex_of_on hin, advancedIndex_of_off, rfl, fun _ => rfl⟩
  case loaded =>
    exact (reg_writeRegs_putRegs_of_lt s.advance (s.bytesFrom s.indexAddr (x.toNat + 1))
      (by omega)).trans (s.getElem_bytesFrom s.indexAddr (x.toNat + 1) r.toNat (by omega))
  case kept => exact s.advance.reg_writeRegs_putRegs _ r (by omega)

/-- Settles O38: each of the four takes its range fault exactly beyond its range. -/
theorem outOfRangeAccessFaultsBeforeAnyWrite : Obligations.OutOfRangeAccessFaultsBeforeAnyWrite := by
  unfold Obligations.OutOfRangeAccessFaultsBeforeAnyWrite
  intro s x y n
  refine ⟨fun h => exec_storeBcd_of_beyond x (Nat.not_le.mpr h),
    fun h => exec_storeRegs_of_beyond x (Nat.not_le.mpr h),
    fun h => exec_loadRegs_of_beyond x (Nat.not_le.mpr h), fun hn h => exec_drw_of_beyond x y ?_⟩
  rintro (hzero | hin)
  · exact hn (BitVec.eq_of_toNat_eq hzero)
  · exact Nat.not_le.mpr h hin

/-- Settles O39: the load reads the bytes the store put, at the same I. -/
theorem storeThenLoadRestoresRegisters : Obligations.StoreThenLoadRestoresRegisters := by
  unfold Obligations.StoreThenLoadRestoresRegisters
  intro s x hm hin
  obtain ⟨t, hstore, hstored, -⟩ := storeRegsCopiesRegistersToMemory s x hm hin
  refine ⟨t, hstore, fun t' hbytes hi => ?_⟩
  have haddr : t'.indexAddr = s.indexAddr := congrArg BitVec.toNat hi
  obtain ⟨u, hload, hloaded, -⟩ := loadRegsCopiesMemoryToRegisters t' x (by rwa [haddr])
  refine ⟨u, hload, fun r hr => ?_⟩
  rw [hloaded r hr, haddr, hbytes, hstored r hr]

/-- Settles O40: the fetch reads the first two bytes the store put. -/
theorem storedWordIsFetchedNext : Obligations.StoredWordIsFetchedNext := by
  unfold Obligations.StoredWordIsFetchedNext
  intro s x hm hx hin
  obtain ⟨t, hstore, hstored, -⟩ := storeRegsCopiesRegistersToMemory s x hm hin
  refine ⟨t, hstore, fun t' hbytes hpc => ?_⟩
  have hhigh : t.byteAt s.i.toNat = s.reg 0x0 := hstored 0x0 (Nat.zero_le _)
  have hlow : t.byteAt (s.i.toNat + 1) = s.reg 0x1 := hstored 0x1 hx
  rw [State.fetchWord, wordOfBytes_toNat, hpc, hbytes, hbytes, hhigh, hlow]

end Sys2Proof.Machine
end

section
/-! SUPPORT. DXYN cell by cell: the sprite's own cells, the collision, and a second draw (R191, R193 to R196). -/

namespace Sys2Proof.Machine

/-- A sprite has at most 15 rows, so no cell is reached twice. -/
theorem bytesFrom_length_le (s : State) (a : Nat) (n : Nibble) : (s.bytesFrom a n.toNat).length ≤ 32 := by
  rw [State.bytesFrom_length]
  exact n.isLt.le.trans (by decide)

/-- The cells the sprite of DXYN reaches are those the rows read from I cover. -/
theorem spriteTouches_iff (s : State) (x y n : Nibble) {cx cy : Nat} (hx : cx < 64) (hy : cy < 32) :
    SpriteTouches s x y n cx cy ↔
      SpriteCovers ((s.reg x).toNat % 64) ((s.reg y).toNat % 32) (s.bytesFrom s.indexAddr n.toNat) cx cy := by
  simp only [SpriteTouches, SpriteCovers, State.bytesFrom_length, State.getElem_bytesFrom,
    Nat.mod_eq_of_lt hx, Nat.mod_eq_of_lt hy]
  constructor
  · rintro ⟨r, c, hr, hc, hcx, hcy, hbit⟩
    exact ⟨r, c, hr, hc, hcx, hcy, hbit⟩
  · rintro ⟨r, c, hr, hc, hcx, hcy, hbit⟩
    exact ⟨r, c, hr, hc, hcx, hcy, hbit⟩

/-- A touched cell is one of the 64 x 32. -/
theorem SpriteTouches.lt {s : State} {x y n : Nibble} {cx cy : Nat} (h : SpriteTouches s x y n cx cy) :
    cx < 64 ∧ cy < 32 := by
  obtain ⟨r, c, -, -, rfl, rfl, -⟩ := h
  exact ⟨Nat.mod_lt _ (by decide), Nat.mod_lt _ (by decide)⟩

/-- A cell is lit after the draw exactly where it was lit and is not touched, or was clear and is touched. -/
theorem cell_drawn_iff (s : State) (x y n : Nibble) {cx cy : Nat} (hx : cx < 64) (hy : cy < 32) :
    (s.drawn x y n).1.cell cx cy = true ↔ (s.fb.cell cx cy = true ↔ ¬SpriteTouches s x y n cx cy) := by
  rw [spriteTouches_iff s x y n hx hy]
  exact (drawRows_eq (s.fb, false) _ _ _ (bytesFrom_length_le s s.indexAddr n)).1 cx cy

theorem cell_drawn_of_touched {s : State} {x y n : Nibble} {cx cy : Nat}
    (h : SpriteTouches s x y n cx cy) : (s.drawn x y n).1.cell cx cy = !s.fb.cell cx cy := by
  have hcell := cell_drawn_iff s x y n h.lt.1 h.lt.2
  rw [Bool.eq_iff_iff, hcell]
  simp [h]

theorem cell_drawn_of_untouched {s : State} {x y n : Nibble} {cx cy : Nat} (hx : cx < 64) (hy : cy < 32)
    (h : ¬SpriteTouches s x y n cx cy) : (s.drawn x y n).1.cell cx cy = s.fb.cell cx cy := by
  rw [Bool.eq_iff_iff, cell_drawn_iff s x y n hx hy]
  simp [h]

/-- The collision is a touched cell that was lit before the draw (R194). -/
theorem hit_drawn_iff (s : State) (x y n : Nibble) :
    (s.drawn x y n).2 = true ↔ ∃ cx cy, SpriteTouches s x y n cx cy ∧ s.fb.cell cx cy = true := by
  have hhit := (drawRows_eq (s.fb, false) ((s.reg x).toNat % 64) ((s.reg y).toNat % 32)
    (s.bytesFrom s.indexAddr n.toNat) (bytesFrom_length_le s s.indexAddr n)).2
  refine hhit.trans ?_
  constructor
  · rintro (h | ⟨cx, cy, hcov, hlit⟩)
    · cases h
    · have hx : cx % 64 < 64 := Nat.mod_lt _ (by decide)
      have hy : cy % 32 < 32 := Nat.mod_lt _ (by decide)
      refine ⟨cx % 64, cy % 32, (spriteTouches_iff s x y n hx hy).mpr ?_, ?_⟩
      · simpa [SpriteCovers] using hcov
      · rwa [s.fb.cell_congr (Nat.mod_mod cx 64) (Nat.mod_mod cy 32)]
  · rintro ⟨cx, cy, htouch, hlit⟩
    exact .inr ⟨cx, cy, (spriteTouches_iff s x y n htouch.lt.1 htouch.lt.2).mp htouch, hlit⟩

theorem drw_frame (s : State) (d : Framebuffer × Bool) :
    (s.advance.writeDisplay d.1).setFlag d.2 =
      { s with v := ((s.advance.writeDisplay d.1).setFlag d.2).v, fb := d.1, dirty := true,
               pc := s.pc + 2 } := rfl

/-- Settles O44: the framebuffer and the collision are those of the drawn sprite, cell by cell. -/
theorem drawTogglesTouchedCellsAndReportsCollision :
    Obligations.DrawTogglesTouchedCellsAndReportsCollision := by
  unfold Obligations.DrawTogglesTouchedCellsAndReportsCollision
  intro s x y n hin
  have hflag : ((s.advance.writeDisplay (s.drawn x y n).1).setFlag (s.drawn x y n).2).reg flagReg =
      flagByte (s.drawn x y n).2 := by
    rw [State.reg_setFlag, if_pos rfl]
  refine ⟨_, exec_drw_of_inRange x y hin,
    fun cx cy hx hy => ⟨cell_drawn_of_touched, cell_drawn_of_untouched hx hy⟩,
    fun hhit => ?hit, fun hmiss => ?miss, fun r hr => ?regs, rfl, rfl, drw_frame s _, fun _ => rfl⟩
  case hit => rw [hflag, (hit_drawn_iff s x y n).mpr hhit]; rfl
  case miss => rw [hflag, Bool.eq_false_iff.mpr (mt (hit_drawn_iff s x y n).mp hmiss)]; rfl
  case regs => rw [State.reg_setFlag, if_neg hr]; rfl

/-- The touched cells depend on the two coordinates, I and the sprite's bytes alone. -/
theorem spriteTouches_congr {s t : State} {x y : Nibble} (n : Nibble) (hx : t.reg x = s.reg x)
    (hy : t.reg y = s.reg y) (hi : t.i = s.i) (hbytes : SameBytes s t) (cx cy : Nat) :
    SpriteTouches t x y n cx cy ↔ SpriteTouches s x y n cx cy := by
  simp only [SpriteTouches, State.indexAddr, hx, hy, hi, hbytes _]

/-- Settles O45: the second draw touches the same cells, and a cell toggled twice is as it was. -/
theorem drawingTwiceRestoresTheFramebuffer : Obligations.DrawingTwiceRestoresTheFramebuffer := by
  unfold Obligations.DrawingTwiceRestoresTheFramebuffer
  intro s x y n hin
  refine ⟨_, exec_drw_of_inRange x y hin, fun t hfb hx hy hi hbytes => ?_⟩
  have hin' : SpriteInRange t n := by rwa [SpriteInRange, State.indexAddr, hi]
  have hsame := spriteTouches_congr n hx hy hi hbytes
  replace hfb : t.fb = (s.drawn x y n).1 := hfb
  refine ⟨_, exec_drw_of_inRange x y hin', Framebuffer.ext_cell fun cx cy hcx hcy => ?_⟩
  show (t.drawn x y n).1.cell cx cy = s.fb.cell cx cy
  by_cases htouch : SpriteTouches s x y n cx cy
  · rw [cell_drawn_of_touched ((hsame cx cy).mpr htouch), hfb, cell_drawn_of_touched htouch, Bool.not_not]
  · rw [cell_drawn_of_untouched hcx hcy (mt (hsame cx cy).mp htouch), hfb,
      cell_drawn_of_untouched hcx hcy htouch]

end Sys2Proof.Machine
end
